-- ==== Sys2Proof/Word.lean ====
section
/-! DEFINITION. The fixed-width value types of the spec (R11, R130): all unsigned, all wrapping. -/

namespace Sys2Proof

/-- A `u8` (R11, R61). -/
abbrev Byte := BitVec 8

/-- A word, a `u32` (R6, R11). -/
abbrev Word := BitVec 32

/-- A command word of the command port (R90, R91). -/
abbrev CmdWord := BitVec 16

/-- A value of `c_op` on the CORE port (R100, R101). -/
abbrev CoreCode := BitVec 2

/-- The value of the `c_block` pins (R100, R102). -/
abbrev BlockPort := BitVec 512

/-- The value of the `rsp_data` pins (R90, R98), and of `c_state` (R103). -/
abbrev DigestPort := BitVec 256

/-- The eight words of a chaining value: `H[0..7]`, `IV[0..7]` (R20, R24). -/
abbrev HashState := Vector Word 8

/-- A block: exactly 64 bytes in input order (R11, R162). -/
abbrev Block := Vector Byte 64

end Sys2Proof
end

