-- ==== Sys2Proof/Config.lean ====
section
/-! DEFINITION. What an implementation fixes. The spec has two open parameters: `HAS_PADDER` (R7), given here as
the two configurations, and `LATENCY` (R8), which no rule reads and the model leaves out (log entry 11).
The spec leaves no value open, so there is no free value here (R219). -/

namespace Sys2Proof

/-- The two configurations of R7. -/
inductive Configuration where
  /-- `CFG_CORE`, `HAS_PADDER = 0`: the CORE alone; the host drives the CORE port. -/
  | core
  /-- `CFG_FULL`, `HAS_PADDER = 1`: CORE and PAD; the host drives the command port. -/
  | full
  deriving DecidableEq, Repr

/-- The parameter `HAS_PADDER` of a configuration (R7). -/
def Configuration.hasPadder : Configuration → Bool
  | .core => false
  | .full => true

end Sys2Proof
end

