-- ==== Sys2Proof/Syntax.lean ====
section
/-! DEFINITION. The operations, one constructor per row of opcode_table.json, and what the host can put on the
engine's input ports. -/

namespace Sys2Proof

/-- The operations of the opcode table: the five commands of `CFG_FULL` (R93) and the three core operations
(R101). -/
inductive Instr where
  /-- `INIT` (R210). -/
  | init
  /-- `FEED imm8` (R211); the operand is the message byte (R92). -/
  | feed (imm8 : Byte)
  /-- `FEED0` (R212). -/
  | feed0
  /-- `FINAL` (R213). -/
  | final
  /-- `STATUS` (R214). -/
  | status
  /-- `C_IDLE` (R101). -/
  | cIdle
  /-- `C_INIT` (R191). -/
  | cInit
  /-- `C_NEXT` (R192); the operand is `c_block` at acceptance (R102). -/
  | cNext (cBlock : BlockPort)
  deriving DecidableEq, Repr

/-- An operation as it stands on a port, before decoding: a command word on the command port of `CFG_FULL` (R90),
or a code and the block pins on the CORE port (R100). -/
inductive PortWord where
  /-- `cmd` with `cmd_valid = 1` (R90). -/
  | cmd (w : CmdWord)
  /-- `c_op` and `c_block` (R100). -/
  | coreOp (code : CoreCode) (cBlock : BlockPort)
  deriving DecidableEq, Repr

/-- One thing the host does to the engine: assert `rst` (R290) or present an operation and hold it until it is
accepted (R90, R299). -/
inductive HostEvent where
  /-- `rst = 1` at a clock edge (R290). -/
  | rst
  /-- An operation presented and accepted (R90, R100). -/
  | present (p : PortWord)
  deriving DecidableEq, Repr

end Sys2Proof
end

