-- ==== Sys2Proof/WellFormed.lean ====
section
/-! DEFINITION. Which operations, port values and host events each configuration has. Every operand is a bit vector
of its own width and any value of it is legal (R92, R192), so what is checked is the port and the reserved code. -/

namespace Sys2Proof

/-- Is the operation a command (format `CMD16`), not a core operation (format `COREOP`)? -/
def Instr.isCommand : Instr → Bool
  | .init => true
  | .feed _ => true
  | .feed0 => true
  | .final => true
  | .status => true
  | .cIdle => false
  | .cInit => false
  | .cNext _ => false

/-- May the host of this configuration issue the operation? The commands exist in `CFG_FULL` only (R222); the CORE
port is the host's in `CFG_CORE` only (R100). -/
def Instr.wf (c : Configuration) (i : Instr) : Bool :=
  i.isCommand == c.hasPadder

/-- May the host of this configuration put this value on a port? Every command word may be presented in `CFG_FULL`,
the illegal ones included (R95); `c_op = 0b11` is outside the host's contract (R101). -/
def PortWord.wf (c : Configuration) : PortWord → Bool
  | .cmd _ => c.hasPadder
  | .coreOp code _ => !c.hasPadder && code != 3#2

/-- `rst` is an input of both configurations (R90, R100, R290). -/
def HostEvent.wf (c : Configuration) : HostEvent → Bool
  | .rst => true
  | .present p => p.wf c

end Sys2Proof
end

