-- ==== Sys2Proof/Decode.lean ====
section
/-! DEFINITION. Decoding of the command word (R91 to R95) and of the core operation code (R101), total, rejecting by
name; after it the encoder, written from the same tables. -/

namespace Sys2Proof

/-- Why a port value is no operation. -/
inductive Reject where
  /-- A command word that matches no row of R93 (R95). -/
  | illegalCommand
  /-- `c_op = 0b11` (R101). -/
  | reservedCoreOp
  deriving DecidableEq, Repr

/-- One row of the opcode map (R93): a word `w` matches when `(w and mask) = match`. -/
structure CmdRow where
  pattern : CmdWord
  mask : CmdWord
  deriving DecidableEq, Repr

/-- The field `OP` of a command word (R91). -/
def fieldOp (w : CmdWord) : BitVec 4 := w.extractLsb' 12 4

/-- The field `ZERO` of a command word (R91). -/
def fieldZero (w : CmdWord) : BitVec 4 := w.extractLsb' 8 4

/-- The field `IMM8` of a command word, used as it stands (R91, R92). -/
def fieldImm8 (w : CmdWord) : Byte := w.extractLsb' 0 8

/-- The test of R93. -/
def CmdRow.fits (r : CmdRow) (w : CmdWord) : Bool := w &&& r.mask == r.pattern

def rowInit : CmdRow := ⟨0x1000#16, 0xFFFF#16⟩
def rowFeed : CmdRow := ⟨0x2000#16, 0xFF00#16⟩
def rowFeed0 : CmdRow := ⟨0x3000#16, 0xFFFF#16⟩
def rowFinal : CmdRow := ⟨0x4000#16, 0xFFFF#16⟩
def rowStatus : CmdRow := ⟨0x5000#16, 0xFFFF#16⟩

/-- The five rows of R93. -/
def cmdRows : List CmdRow := [rowInit, rowFeed, rowFeed0, rowFinal, rowStatus]

/-- Decoding of a command word (R93, R95). The rows are disjoint, so the order of the tests does not matter. -/
def decodeCmd (w : CmdWord) : Except Reject Instr :=
  if rowInit.fits w then .ok .init
  else if rowFeed.fits w then .ok (.feed (fieldImm8 w))
  else if rowFeed0.fits w then .ok .feed0
  else if rowFinal.fits w then .ok .final
  else if rowStatus.fits w then .ok .status
  else .error .illegalCommand

/-- Decoding of the core operation code (R101); `c_block` is the operand of `C_NEXT` and is ignored by the others
(R102). -/
def decodeCoreOp (code : CoreCode) (cBlock : BlockPort) : Except Reject Instr :=
  if code = 0#2 then .ok .cIdle
  else if code = 1#2 then .ok .cInit
  else if code = 2#2 then .ok (.cNext cBlock)
  else .error .reservedCoreOp

/-- Decoding of what stands on a port. -/
def decode : PortWord → Except Reject Instr
  | .cmd w => decodeCmd w
  | .coreOp code cBlock => decodeCoreOp code cBlock

/-- The port value of an operation, from the tables of R93 and R101: `OP` on top, `ZERO` 0, then `IMM8`. The block
pins are 0 where the operation ignores them. -/
def encode : Instr → PortWord
  | .init => .cmd (0x1#4 ++ 0x0#4 ++ 0x00#8)
  | .feed imm8 => .cmd (0x2#4 ++ 0x0#4 ++ imm8)
  | .feed0 => .cmd (0x3#4 ++ 0x0#4 ++ 0x00#8)
  | .final => .cmd (0x4#4 ++ 0x0#4 ++ 0x00#8)
  | .status => .cmd (0x5#4 ++ 0x0#4 ++ 0x00#8)
  | .cIdle => .coreOp 0b00#2 0
  | .cInit => .coreOp 0b01#2 0
  | .cNext cBlock => .coreOp 0b10#2 cBlock

/-- The port value of an opcode-table word: 16 bits are a command word (R91); up to 8 bits hold the 2-bit `c_op` with
the operand `c_block` counting on from it (R101; DESIGN CHOICE, log entry 10). -/
def tablePortWord (nbits w : Nat) : Option PortWord :=
  if nbits = 16 then some (.cmd (BitVec.ofNat 16 w))
  else if nbits ≤ 8 then some (.coreOp (BitVec.ofNat 2 w) (BitVec.ofNat 512 (w / 4)))
  else none

/-- The operation the decoder reads from an opcode-table word, if it is one. -/
def decodeTableWord (nbits w : Nat) : Option Instr :=
  match tablePortWord nbits w with
  | none => none
  | some p =>
    match decode p with
    | .ok i => some i
    | .error _ => none

end Sys2Proof
end

