-- ==== Sys2Proof/Machine/Arith.lean ====
section
/-! DEFINITION. 32-bit word arithmetic (R120 to R125, R130). Nothing here sets a flag or can fail. -/

namespace Sys2Proof.Machine

/-- `add32(x_1, ..., x_n)`: addition modulo `2^32`, the carry discarded (R120). -/
def add32 (xs : List Word) : Word := xs.foldl (fun acc x => acc + x) 0

/-- `rotr32(x, n)` for `1 <= n <= 31` (R121). -/
def rotr32 (x : Word) (n : Nat) : Word := (x >>> n) + (x <<< (32 - n))

/-- `shr32(x, n)`, the logical shift (R122). -/
def shr32 (x : Word) (n : Nat) : Word := x >>> n

/-- `not32(x)`, the complement of 32 bits (R123). -/
def not32 (x : Word) : Word := ~~~x

/-- `add64(x, y)`: addition modulo `2^64`, for the bit counter (R125). -/
def add64 (x y : BitVec 64) : BitVec 64 := x + y

end Sys2Proof.Machine
end

