-- ==== Sys2Proof/Machine/Operands.lean ====
section
/-! DEFINITION. Byte and word conversion (R62, R63, R126 to R128) and the placement of byte sequences on the wide
ports (R64, R66, R102, R103). Big-endian everywhere. -/

namespace Sys2Proof.Machine

/-- `be32(b0, b1, b2, b3)`: the first byte is the most significant (R126). -/
def be32 (b0 b1 b2 b3 : Byte) : Word := b0 ++ b1 ++ b2 ++ b3

/-- `be32_bytes(w)[k]` for `k = 0 .. 3` (R127). -/
def be32Byte (w : Word) (k : Nat) : Byte := w.extractLsb' (24 - 8 * k) 8

/-- `be32_bytes(w)` (R127). -/
def be32Bytes (w : Word) : List Byte := (List.range 4).map (be32Byte w)

/-- `be64_bytes(v)[k]` for `k = 0 .. 7` (R128). -/
def be64Byte (v : BitVec 64) (k : Nat) : Byte := v.extractLsb' (56 - 8 * k) 8

/-- `be64_bytes(v)` (R128). -/
def be64Bytes (v : BitVec 64) : List Byte := (List.range 8).map (be64Byte v)

/-- The byte read `Block[j]`, for `j = 0 .. 63` (R162; log entry 14). -/
def blockByte (b : Block) (j : Nat) : Byte := b.getD j 0

/-- The block on the `c_block` pins: `Block[j] = c_block[511 - 8*j : 504 - 8*j]` (R64, R102). -/
def blockOfPort (p : BlockPort) : Block :=
  Vector.ofFn fun j => p.extractLsb' (504 - 8 * j.val) 8

/-- The big-endian reading of a byte sequence as one number (R64). -/
def beNat (bs : List Byte) : Nat := bs.foldl (fun n b => 2 ^ 8 * n + b.toNat) 0

/-- A block laid on the `c_block` pins, byte 0 on top (R64). -/
def portOfBlock (b : Block) : BlockPort := BitVec.ofNat 512 (beNat b.toList)

/-- `DIGEST`, the 32-byte view of `H` (R39, R66). -/
def digest (h : HashState) : List Byte := h.toList.flatMap be32Bytes

/-- `rsp_data` for a digest, byte 0 on top (R64, R98). -/
def digestPort (h : HashState) : DigestPort := BitVec.ofNat 256 (beNat (digest h))

/-- `c_state = H[0] ‖ H[1] ‖ ... ‖ H[7]` (R64, R103). -/
def hashPort (h : HashState) : DigestPort :=
  BitVec.ofNat 256 (h.toList.foldl (fun n w => 2 ^ 32 * n + w.toNat) 0)

end Sys2Proof.Machine
end

