-- ==== Sys2Proof/Machine/Schedule.lean ====
section
/-! DEFINITION. The message-schedule expander of the CORE (R160 to R165). `W` is a local value (R29; log entry 3):
the list of the words written so far, so no word can be read before it is written (R47). -/

namespace Sys2Proof.Machine

/-- `σ0` (R160): two rotations and a shift. -/
def sigma0 (x : Word) : Word := rotr32 x 7 ^^^ rotr32 x 18 ^^^ shr32 x 3

/-- `σ1` (R161): two rotations and a shift. -/
def sigma1 (x : Word) : Word := rotr32 x 17 ^^^ rotr32 x 19 ^^^ shr32 x 10

/-- The read `W[t]` of a word already written (R27; log entry 14). -/
def wAt (w : List Word) (t : Nat) : Word := w.getD t 0

/-- `SCHED_LOAD`: `W[0..15]` from the block, big-endian (R163). -/
def schedLoad (b : Block) : List Word :=
  (List.range 16).map fun i =>
    be32 (blockByte b (4 * i)) (blockByte b (4 * i + 1)) (blockByte b (4 * i + 2)) (blockByte b (4 * i + 3))

/-- The word that `SCHED_EXP t` computes (R164). -/
def schedWord (w : List Word) (t : Nat) : Word :=
  add32 [sigma1 (wAt w (t - 2)), wAt w (t - 7), sigma0 (wAt w (t - 15)), wAt w (t - 16)]

/-- `SCHED_EXP t`: writes `W[t]` after `W[0 .. t-1]` (R164). -/
def schedExp (w : List Word) (t : Nat) : List Word := w ++ [schedWord w t]

/-- `Sched(Block)`: `SCHED_LOAD`, then `SCHED_EXP t` for `t = 16, 17, ..., 63` (R165). -/
def sched (b : Block) : List Word := (List.range' 16 48).foldl schedExp (schedLoad b)

end Sys2Proof.Machine
end

