-- ==== Sys2Proof/Machine/Compression.lean ====
section
/-! DEFINITION. The compression function of the CORE (R180 to R190). The working registers are a local value
(R22, R29; log entry 3), so `H` survives untouched until `FEEDBACK` (R296). -/

namespace Sys2Proof.Machine

/-- The working registers `a .. h` of one compression (R22). -/
structure Work where
  a : Word
  b : Word
  c : Word
  d : Word
  e : Word
  f : Word
  g : Word
  h : Word
  deriving DecidableEq, Repr

/-- `Σ0` (R180): three rotations. -/
def bigSigma0 (x : Word) : Word := rotr32 x 2 ^^^ rotr32 x 13 ^^^ rotr32 x 22

/-- `Σ1` (R181): three rotations. -/
def bigSigma1 (x : Word) : Word := rotr32 x 6 ^^^ rotr32 x 11 ^^^ rotr32 x 25

/-- `Ch`, choose (R182). -/
def ch (x y z : Word) : Word := (x &&& y) ^^^ (not32 x &&& z)

/-- `Maj`, majority (R183). -/
def maj (x y z : Word) : Word := (x &&& y) ^^^ (x &&& z) ^^^ (y &&& z)

/-- `ROUND_INIT`: `a` from `H[0]`, ..., `h` from `H[7]` (R186). -/
def roundInit (s : HashState) : Work :=
  ⟨s[0], s[1], s[2], s[3], s[4], s[5], s[6], s[7]⟩

/-- `T1` of a round with constant `k` and schedule word `w` (R187). -/
def roundT1 (k w : Word) (r : Work) : Word := add32 [r.h, bigSigma1 r.e, ch r.e r.f r.g, k, w]

/-- `T2` of a round (R187). -/
def roundT2 (r : Work) : Word := add32 [bigSigma0 r.a, maj r.a r.b r.c]

/-- The round of R187 with constant `k` and schedule word `w`: one simultaneous assignment of all eight registers. -/
def roundStep (k w : Word) (r : Work) : Work where
  h := r.g
  g := r.f
  f := r.e
  e := add32 [r.d, roundT1 k w r]
  d := r.c
  c := r.b
  b := r.a
  a := add32 [roundT1 k w r, roundT2 r]

/-- `ROUND t`: it uses `K[t]` and `W[t]` (R187). -/
def roundAt (w : List Word) (r : Work) (t : Nat) : Work := roundStep (kAt t) (wAt w t) r

/-- The rounds `t = 0, 1, ..., 63`, in that order, all of them (R188). -/
def rounds (w : List Word) (r : Work) : Work := (List.range 64).foldl (roundAt w) r

/-- `FEEDBACK`: addition, never overwrite; no carry between words (R189). -/
def feedback (s : HashState) (r : Work) : HashState :=
  #v[add32 [s[0], r.a], add32 [s[1], r.b], add32 [s[2], r.c], add32 [s[3], r.d],
     add32 [s[4], r.e], add32 [s[5], r.f], add32 [s[6], r.g], add32 [s[7], r.h]]

/-- `Compress(S, Block)` (R190). -/
def compress (s : HashState) (b : Block) : HashState :=
  feedback s (rounds (sched b) (roundInit s))

end Sys2Proof.Machine
end

