-- ==== Sys2Proof/Machine/State.lean ====
section
/-! DEFINITION. The state of the machine as plain data (R45), the reasons a step can stop, and the reset state. -/

namespace Sys2Proof.Machine

/-- `PHASE`, the lifecycle state (R36): three values, and no fourth (93 U7). -/
inductive Phase where
  | fresh
  | accumulating
  | finalized
  deriving DecidableEq, Repr

/-- `rsp_code` (R96): three values; code 3 is never produced (93 U4). -/
inductive RspCode where
  /-- The command was performed. -/
  | ok
  /-- `UseAfterFinalize`; the command was not performed (R252). -/
  | errUaf
  /-- `IllegalCommand`; the word is no command (R254). -/
  | errIllegal
  deriving DecidableEq, Repr

/-- What the response port shows while `rsp_valid = 1` (R96, R98). -/
structure Response where
  code : RspCode
  data : DigestPort
  deriving DecidableEq, Repr

/-- The state of the PAD unit (R33 to R37) and its response port (R96). -/
structure Pad where
  /-- `BUF[0..63]` (R33). Cells at `BUFLEN` and above are stale and never read. -/
  buf : Vector Byte 64
  /-- `BUFLEN` between operations (R33). The 64 inside a `FEED` is a local value there (90 C1). -/
  bufLen : Fin 64
  /-- `BITCNT` (R34). -/
  bitCnt : BitVec 64
  /-- `PHASE` (R36). -/
  phase : Phase
  /-- `UAF`, sticky (R37). -/
  uaf : Bool
  /-- `OVF`, sticky (R37). -/
  ovf : Bool
  /-- `ILL`, sticky (R37). -/
  ill : Bool
  /-- The response port after the last step: `none` while `rsp_valid = 0` (R97, R293; log entry 8). -/
  rsp : Option Response
  deriving DecidableEq, Repr

/-- The state of one engine between two operations, with the operations its host is still to present. -/
structure State where
  /-- `H[0..7]` (R20). -/
  h : HashState
  /-- The PAD unit: present in `CFG_FULL`, absent in `CFG_CORE` (R7, R44; log entry 2). -/
  pad : Option Pad
  /-- The model's own field: what the host will present, in order (R10, R105; log entry 1). -/
  host : List HostEvent
  deriving DecidableEq, Repr

/-- The machine has no fault: every accepted operation yields a next state (R260, R268, R304; log entry 15). -/
inductive Fault
  deriving DecidableEq, Repr

/-- Why the model has no transition. All are safe: nothing can be proved about a host that does this. -/
inductive Refusal where
  /-- Raised by `exec` for an instruction without a meaning; no arm of this model answers with it. Safe. -/
  | notModelled (mnemonic : String)
  /-- Raised by `accept` for `c_op = 0b11` on the CORE port: the spec asks a model to refuse it (R101, 93 U5). Safe. -/
  | reservedCoreOp
  /-- Raised by `accept` and by the five commands in `CFG_CORE`, which has no command port and no PAD (R222). Safe. -/
  | noCommandPort
  /-- Raised by `accept` for a core operation from the host of `CFG_FULL`, whose CORE port is internal (R100). Safe. -/
  | noCorePort
  deriving DecidableEq, Repr

/-- The configuration of this engine (R7). -/
def State.config (s : State) : Configuration :=
  match s.pad with
  | none => .core
  | some _ => .full

/-- PAD after reset (R45). DESIGN CHOICE (log entry 4): the `BUF` cells, unspecified there, hold 0. -/
def Pad.reset : Pad where
  buf := Vector.replicate 64 0
  bufLen := 0
  bitCnt := 0
  phase := .fresh
  uaf := false
  ovf := false
  ill := false
  rsp := none

/-- An engine of configuration `c` right after reset (R45, R290, R293), with a host that presents nothing. -/
def State.resetOf : Configuration → State
  | .core => { h := iv, pad := none, host := [] }
  | .full => { h := iv, pad := some Pad.reset, host := [] }

/-- The machine right after reset. DESIGN CHOICE (log entry 2): the configuration is `CFG_FULL`. -/
def State.reset : State := State.resetOf .full

end Sys2Proof.Machine
end

