-- ==== Sys2Proof/Machine/Flags.lean ====
section
/-! DEFINITION. The flag computations: the conditions with their codes and sticky flags (R37, R250, R251), the
overflow test (R256), and the `STATUS` view (R38). -/

namespace Sys2Proof.Machine

/-- The three conditions (R250). -/
inductive Condition where
  /-- R252: raised by `FEED` and `FEED0` in `Finalized`. -/
  | useAfterFinalize
  /-- R254: raised by the decoder. -/
  | illegalCommand
  /-- R256: recorded by the `FEED` that wraps `BITCNT`; soft. -/
  | lengthOverflow
  deriving DecidableEq, Repr

/-- The response code of a condition (R251); the soft one is answered `OK`. -/
def Condition.code : Condition → RspCode
  | .useAfterFinalize => .errUaf
  | .illegalCommand => .errIllegal
  | .lengthOverflow => .ok

/-- Setting the sticky flag of a condition (R37, R251); a flag already set stays set. -/
def Pad.setFlag (c : Condition) (p : Pad) : Pad :=
  match c with
  | .useAfterFinalize => { p with uaf := true }
  | .illegalCommand => { p with ill := true }
  | .lengthOverflow => { p with ovf := true }

/-- Is the counter at `2^64 - 8`, so that the next byte wraps it (R211, R256)? -/
def countWraps (cnt : BitVec 64) : Bool := cnt == 0xFFFFFFFFFFFFFFF8#64

/-- The number of a response code on `rsp_code[1:0]` (R96). -/
def RspCode.bits : RspCode → BitVec 2
  | .ok => 0
  | .errUaf => 1
  | .errIllegal => 2

/-- The 2-bit encoding of `PHASE` (R36). -/
def Phase.bits : Phase → BitVec 2
  | .fresh => 0
  | .accumulating => 1
  | .finalized => 2

/-- `STATUS` (R38): bits 15:14 are 0, 13:8 `BUFLEN`, 7:5 are 0, 4 `ILL`, 3 `OVF`, 2 `UAF`, 1:0 `PHASE`. -/
def statusWord (p : Pad) : BitVec 16 :=
  0#2 ++ BitVec.ofNat 6 p.bufLen.val ++ 0#3 ++ BitVec.ofBool p.ill ++ BitVec.ofBool p.ovf ++ BitVec.ofBool p.uaf ++
    p.phase.bits

end Sys2Proof.Machine
end

