-- ==== Sys2Proof/Machine/Padding.lean ====
section
/-! DEFINITION. Padding and length encoding (R140 to R145): `Pad` of a whole message, and the tail that PAD builds
from the pending bytes inside `FINAL`. -/

namespace Sys2Proof.Machine

/-- The fill count `z(n) = (55 - n) mod 64`, non-negative (R140). -/
def zeroFill (n : Nat) : Nat := ((55 - (n : Int)) % 64).toNat

/-- The mandatory byte after the message (R142). -/
def padMarker : Byte := 0x80

/-- The length field of a message of `n` bytes: its length in bits modulo `2^64`, big-endian (R141). -/
def lengthField (n : Nat) : List Byte := be64Bytes (BitVec.ofNat 64 (8 * n))

/-- `Pad(M)` (R142). -/
def padMessage (m : List Byte) : List Byte :=
  m ++ [padMarker] ++ List.replicate (zeroFill m.length) 0 ++ lengthField m.length

/-- The length `n` of the tail for `r` pending bytes: one block or two (R144). -/
def tailLength (r : Nat) : Nat := if r ≤ 55 then 64 else 128

/-- The byte `T[j]` of the tail for `r` pending bytes in `buf` and the counter value `cnt` (R144). -/
def tailByte (buf : Vector Byte 64) (r : Nat) (cnt : BitVec 64) (j : Nat) : Byte :=
  if j < r then buf.getD j 0
  else if j = r then padMarker
  else if j < tailLength r - 8 then 0
  else be64Byte cnt (j - (tailLength r - 8))

/-- `TAIL`: the whole tail `T` (R144). -/
def tail (buf : Vector Byte 64) (r : Nat) (cnt : BitVec 64) : List Byte :=
  (List.range (tailLength r)).map (tailByte buf r cnt)

/-- Block `k` of the tail: `T[64*k .. 64*k + 63]` (R144, R213). -/
def tailBlock (buf : Vector Byte 64) (r : Nat) (cnt : BitVec 64) (k : Nat) : Block :=
  Vector.ofFn fun j => tailByte buf r cnt (64 * k + j.val)

end Sys2Proof.Machine
end

