-- ==== Sys2Proof/Machine/Ops.lean ====
section
/-! DEFINITION. The named operations over the registers: the micro-operations of PAD and CORE that the commands are
made of, raising a condition, reset, and the ports. -/

namespace Sys2Proof.Machine

/-- Writing `H`. Only initialisation and `FEEDBACK` do (R21). -/
def State.setH (h : HashState) (s : State) : State := { s with h := h }

/-- Writing back the PAD unit. -/
def State.setPad (p : Pad) (s : State) : State := { s with pad := some p }

/-- The host's remaining events. -/
def State.setHost (l : List HostEvent) (s : State) : State := { s with host := l }

/-- `respond(code, data)`: drive the response port; the command ends (R96, R97). -/
def Pad.respond (code : RspCode) (data : DigestPort) (p : Pad) : Pad := { p with rsp := some ⟨code, data⟩ }

/-- `rsp_valid` back to 0 (R97). -/
def Pad.dropResponse (p : Pad) : Pad := { p with rsp := none }

/-- `PHASE <- ph` (R36). -/
def Pad.setPhase (ph : Phase) (p : Pad) : Pad := { p with phase := ph }

/-- Raising an error (R252, R254, R260): one sticky flag, one response code with data 0, nothing else. There is no
saved state, no vector and nothing to return from (R260, R261); the recovery is `INIT` or reset. -/
def Pad.raise (c : Condition) (p : Pad) : Pad := (p.setFlag c).respond c.code 0

/-- Raising an error, on the whole state. -/
def State.raise (c : Condition) (p : Pad) (s : State) : State := s.setPad (p.raise c)

/-- The core operation `C_INIT`: `H <- IV` (R191). -/
def State.coreInit (s : State) : State := s.setH iv

/-- The core operation `C_NEXT` on a block: `H <- Compress(H, Block)` (R192). -/
def State.coreNext (b : Block) (s : State) : State := s.setH (compress s.h b)

/-- The writes of `INIT` to PAD (R210): counters, flags and phase; the `BUF` cells are not cleared. -/
def Pad.clear (p : Pad) : Pad :=
  { p with bufLen := 0, bitCnt := 0, uaf := false, ovf := false, ill := false, phase := .fresh }

/-- `BUF[BUFLEN] <- b` (R211). -/
def Pad.storeByte (b : Byte) (p : Pad) : Pad := { p with buf := p.buf.set p.bufLen.val b p.bufLen.isLt }

/-- `if BITCNT = 2^64 - 8: OVF <- 1`, then `BITCNT <- add64(BITCNT, 8)` (R211, R256). -/
def Pad.countByte (p : Pad) : Pad :=
  let q := if countWraps p.bitCnt then p.setFlag .lengthOverflow else p
  { q with bitCnt := add64 q.bitCnt 8 }

/-- `BUFLEN` after the increment of a `FEED` and the drain that may follow it: 64 becomes 0 (R211). -/
def nextBufLen (n : Fin 64) : Fin 64 := if h : n.val + 1 < 64 then ⟨n.val + 1, h⟩ else 0

/-- The advance of `BUFLEN` (R211). -/
def Pad.advance (p : Pad) : Pad := { p with bufLen := nextBufLen p.bufLen }

/-- Does the byte fed now fill the buffer (R211: `BUFLEN = 64` after the increment)? -/
def Pad.fills (p : Pad) : Bool := p.bufLen.val + 1 == 64

/-- PAD after an accepted `FEED` of `b`, before its response (R211). -/
def Pad.feedByte (b : Byte) (p : Pad) : Pad := ((p.storeByte b).countByte.advance).setPhase .accumulating

/-- `H` after an accepted `FEED` of `b`: the 64th byte drains the buffer through one `C_NEXT` (R211, R193). -/
def State.feedCore (b : Byte) (p : Pad) (s : State) : State :=
  if p.fills then s.coreNext (p.storeByte b).buf else s

/-- Block `k` of the tail of this PAD (R144, R213). -/
def Pad.tailBlock (p : Pad) (k : Nat) : Block := Machine.tailBlock p.buf p.bufLen.val p.bitCnt k

/-- The one or two compressions of the first `FINAL` (R213). -/
def State.finalCore (p : Pad) (s : State) : State :=
  if 56 ≤ p.bufLen.val then (s.coreNext (p.tailBlock 0)).coreNext (p.tailBlock 1) else s.coreNext (p.tailBlock 0)

/-- A command of `CFG_FULL`: it runs on the PAD unit, and there is none in `CFG_CORE` (R222). -/
def State.onPad (s : State) (k : Pad → State) : Host.Outcome State Fault Refusal :=
  match s.pad with
  | none => .refused .noCommandPort
  | some p => .next (k p)

/-- `rst = 1` at a clock edge (R290, R293): every item takes its reset value, in both configurations; what the host
will present next is not the engine's. -/
def State.applyReset (s : State) : State := (State.resetOf s.config).setHost s.host

/-- A clock edge at which nothing is presented: the engine holds its state (R267) and `rsp_valid` is 0 (R97; log
entry 9). -/
def State.idle (s : State) : State := { s with pad := s.pad.map Pad.dropResponse }

/-- An engine whose host presents `p` next, on the port that `p` belongs to (log entries 1, 2, 10). -/
def State.presenting (p : PortWord) (s : State) : State :=
  match p with
  | .cmd _ => (s.setHost (.present p :: s.host)).setPad (s.pad.getD Pad.reset)
  | .coreOp _ _ => { s with host := .present p :: s.host, pad := none }

end Sys2Proof.Machine
end

