-- ==== Sys2Proof/Machine/Commands.lean ====
section
/-! DEFINITION. The meanings of the five commands of `CFG_FULL` (R210 to R214). -/

namespace Sys2Proof.Machine

/-- `INIT` (R210): legal in every phase. -/
def execInit (s : State) : Host.Outcome State Fault Refusal :=
  s.onPad fun p => s.coreInit.setPad (p.clear.respond .ok 0)

/-- `FEED imm8` (R211): in `Finalized` it raises `UseAfterFinalize` before anything is written. -/
def execFeed (imm8 : Byte) (s : State) : Host.Outcome State Fault Refusal :=
  s.onPad fun p =>
    if p.phase = .finalized then s.raise .useAfterFinalize p
    else (s.feedCore imm8 p).setPad ((p.feedByte imm8).respond .ok 0)

/-- `FEED0` (R212): the transition of an empty chunk. -/
def execFeed0 (s : State) : Host.Outcome State Fault Refusal :=
  s.onPad fun p =>
    if p.phase = .finalized then s.raise .useAfterFinalize p
    else s.setPad ((p.setPhase .accumulating).respond .ok 0)

/-- `FINAL` (R213): the first one compresses the tail; every one responds with the digest. -/
def execFinal (s : State) : Host.Outcome State Fault Refusal :=
  s.onPad fun p =>
    let t := if p.phase = .finalized then s else s.finalCore p
    t.setPad ((p.setPhase .finalized).respond .ok (digestPort t.h))

/-- `STATUS` (R214): legal in every phase, no transition. -/
def execStatus (s : State) : Host.Outcome State Fault Refusal :=
  s.onPad fun p => s.setPad (p.respond .ok ((statusWord p).setWidth 256))

end Sys2Proof.Machine
end

