-- ==== Sys2Proof/Machine/CoreOps.lean ====
section
/-! DEFINITION. The meanings of the three core operations (R101, R191, R192). They act on the CORE, which both
configurations have; who may issue them is decided where the port is read (log entry 7). -/

namespace Sys2Proof.Machine

/-- `C_IDLE` (R101): nothing is accepted, no state changes. -/
def execCIdle (s : State) : Host.Outcome State Fault Refusal := .next s

/-- `C_INIT` (R191). -/
def execCInit (s : State) : Host.Outcome State Fault Refusal := .next s.coreInit

/-- `C_NEXT` (R192) with the block on the `c_block` pins at acceptance (R102). -/
def execCNext (cBlock : BlockPort) (s : State) : Host.Outcome State Fault Refusal :=
  .next (s.coreNext (blockOfPort cBlock))

end Sys2Proof.Machine
end

