-- ==== Sys2Proof/Machine/Dispatch.lean ====
section
/-! DEFINITION. The one dispatch over the operations. -/

namespace Sys2Proof.Machine

def exec (i : Instr) (s : State) : Host.Outcome State Fault Refusal :=
  match i with
  | .init => Sys2Proof.Machine.execInit s
  | .feed imm8 => Sys2Proof.Machine.execFeed imm8 s
  | .feed0 => Sys2Proof.Machine.execFeed0 s
  | .final => Sys2Proof.Machine.execFinal s
  | .status => Sys2Proof.Machine.execStatus s
  | .cIdle => Sys2Proof.Machine.execCIdle s
  | .cInit => Sys2Proof.Machine.execCInit s
  | .cNext cBlock => Sys2Proof.Machine.execCNext cBlock s

end Sys2Proof.Machine
end

