-- ==== Sys2Proof/Machine/Accept.lean ====
section
/-! DEFINITION. Accepting what the host presents: which port exists, decoding, and the order of the tests (R259). -/

namespace Sys2Proof.Machine

/-- A command word on the command port. Decode comes first; an illegal word raises `IllegalCommand` whatever the
phase (R95, R254, R259). `CFG_CORE` has no command port (R222). -/
def acceptCmd (w : CmdWord) (s : State) : Host.Outcome State Fault Refusal :=
  match s.pad with
  | none => .refused .noCommandPort
  | some p =>
    match decodeCmd w with
    | .ok i => exec i s
    | .error _ => .next (s.raise .illegalCommand p)

/-- A core operation from the host. The CORE port of `CFG_FULL` is internal (R100); `c_op = 0b11` is refused (R101,
93 U5). -/
def acceptCoreOp (code : CoreCode) (cBlock : BlockPort) (s : State) : Host.Outcome State Fault Refusal :=
  match s.pad with
  | some _ => .refused .noCorePort
  | none =>
    match decodeCoreOp code cBlock with
    | .ok i => exec i s
    | .error _ => .refused .reservedCoreOp

/-- One event of the host, on an engine whose host has the rest still to present. -/
def accept (e : HostEvent) (s : State) : Host.Outcome State Fault Refusal :=
  match e with
  | .rst => .next s.applyReset
  | .present (.cmd w) => acceptCmd w s
  | .present (.coreOp code cBlock) => acceptCoreOp code cBlock s

/-- The next event is taken from the host and accepted; with none, the engine waits (R46, R97). -/
def acceptNext (s : State) : Host.Outcome State Fault Refusal :=
  match s.host with
  | [] => .next s.idle
  | e :: rest => accept e (s.setHost rest)

/-- The state whose next step runs the opcode-table word `w` of `nbits` bits. -/
def placeTableWord (s : State) (nbits w : Nat) : State :=
  match tablePortWord nbits w with
  | none => s
  | some p => s.presenting p

end Sys2Proof.Machine
end

