-- ==== Sys2Proof/Machine/Step.lean ====
section
/-! DEFINITION. One step of the machine: one event of the host, from acceptance to response (R69, R97). -/

namespace Sys2Proof.Machine

def step (s : State) : Host.Outcome State Fault Refusal := acceptNext s

/-- `s` with the opcode-table word presented as the next thing the engine accepts (log entries 1, 2, 10). -/
def State.withFetchWord (s : State) (nbits w : Nat) : State := placeTableWord s nbits w

end Sys2Proof.Machine
end

