-- ==== Sys2Proof/Machine/Reference.lean ====
section
/-! DEFINITION. What the engine is for: the function `SHA256DE` of a whole message (R146) and the source's `feed` of
a whole chunk (R215), written on byte sequences. -/

namespace Sys2Proof.Machine

/-- Block `i` of a byte sequence: its bytes `64*i .. 64*i + 63`. -/
def blockAt (m : List Byte) (i : Nat) : Block := Vector.ofFn fun j => m.getD (64 * i + j.val) 0

/-- The whole blocks of a byte sequence, in order. -/
def blocksOf (m : List Byte) : List Block := (List.range (m.length / 64)).map (blockAt m)

/-- `Compress(... Compress(S, B_0) ..., B_(q-1))` over the whole blocks of `m` (R146, R217). -/
def foldBlocks (s : HashState) (m : List Byte) : HashState := (blocksOf m).foldl compress s

/-- `SHA256DE(M)` (R146). -/
def sha256de (m : List Byte) : List Byte := digest (foldBlocks iv (padMessage m))

/-- `rsp_data` for a sequence of 32 bytes, byte 0 on top (R64). -/
def bytesPort (bs : List Byte) : DigestPort := BitVec.ofNat 256 (beNat bs)

/-- The part of the engine that `feed(chunk)` of the source acts on: the state, the pending bytes in feed order and
the bit counter (R215). -/
structure FeedView where
  h : HashState
  pending : List Byte
  bitCnt : BitVec 64
  deriving DecidableEq, Repr

/-- The source's `feed(c)` (R215): append all of `c`, add `8*n` to the bit count, then compress and remove 64-byte
slices while at least 64 bytes are pending. -/
def feedChunk (c : List Byte) (v : FeedView) : FeedView where
  h := foldBlocks v.h (v.pending ++ c)
  pending := (v.pending ++ c).drop (64 * ((v.pending ++ c).length / 64))
  bitCnt := v.bitCnt + BitVec.ofNat 64 (8 * c.length)

end Sys2Proof.Machine
end

