-- ==== Sys2Proof/Machine/Pseudo.lean ====
section
/-! DEFINITION. The pseudo-instructions, each with its expansion (R94, R106). -/

namespace Sys2Proof.Machine

/-- `FEEDX`: one `FEED` a byte, or `FEED0` for no byte (R94, R106). -/
def feedx (bs : List Byte) : List Instr :=
  match bs with
  | [] => [.feed0]
  | b :: rest => .feed b :: rest.map Instr.feed

/-- The ASCII codes of a text; `none` where a character is not ASCII (R106; log entry 16). -/
def asciiBytes : List Char → Option (List Byte)
  | [] => some []
  | c :: cs => if c.toNat < 128 then (asciiBytes cs).map (BitVec.ofNat 8 c.toNat :: ·) else none

/-- `FEEDS "text"` (R106). -/
def feeds (text : List Char) : Option (List Instr) := (asciiBytes text).map feedx

/-- `HASH`: a new engine, the message, the digest (R106). -/
def hashOps (m : List Byte) : List Instr := [.init] ++ feedx m ++ [.final]

/-- `C_HASH` for `CFG_CORE`: the host pads and presents the blocks in order (R106). -/
def coreHashOps (m : List Byte) : List Instr :=
  .cInit :: (blocksOf (padMessage m)).map fun b => .cNext (portOfBlock b)

/-- A host that issues these operations in order (R105). -/
def issue (is : List Instr) : List HostEvent := is.map fun i => .present (encode i)

end Sys2Proof.Machine
end

