-- ==== Sys2Proof/Machine/Assembler.lean ====
section
/-! DEFINITION. The assembler syntax of R105 and R106: the line that spells an operation, and the operations a line
stands for. Spacing, the case of a hexadecimal digit and the quoting of `FEEDS` are the model's choice (log entry 16). -/

namespace Sys2Proof.Machine

/-- A hexadecimal digit, in upper case. -/
def hexDigit (n : Nat) : Char := if n < 10 then Char.ofNat (48 + n) else Char.ofNat (55 + n)

/-- The value of a hexadecimal digit, in either case. -/
def hexValue (c : Char) : Option Nat :=
  if 48 ≤ c.toNat ∧ c.toNat ≤ 57 then some (c.toNat - 48)
  else if 65 ≤ c.toNat ∧ c.toNat ≤ 70 then some (c.toNat - 55)
  else if 97 ≤ c.toNat ∧ c.toNat ≤ 102 then some (c.toNat - 87)
  else none

/-- The two digits of a byte. -/
def hexOfByte (b : Byte) : List Char := [hexDigit (b.toNat / 16), hexDigit (b.toNat % 16)]

/-- The bytes that an even number of hexadecimal digits spells, in order. -/
def bytesOfHex : List Char → Option (List Byte)
  | [] => some []
  | [_] => none
  | c :: d :: rest =>
    match hexValue c, hexValue d, bytesOfHex rest with
    | some x, some y, some bs => some (BitVec.ofNat 8 (16 * x + y) :: bs)
    | _, _, _ => none

/-- The line that spells an operation (R105). -/
def asmLine : Instr → List Char
  | .init => "INIT".toList
  | .feed imm8 => "FEED 0x".toList ++ hexOfByte imm8
  | .feed0 => "FEED0".toList
  | .final => "FINAL".toList
  | .status => "STATUS".toList
  | .cIdle => "C_IDLE".toList
  | .cInit => "C_INIT".toList
  | .cNext cBlock => "C_NEXT ".toList ++ (blockOfPort cBlock).toList.flatMap hexOfByte

/-- A line without its comment: `;` starts one, except between double quotes (R105, R106). -/
def stripComment (quoted : Bool) : List Char → List Char
  | [] => []
  | c :: cs =>
    if c = ';' ∧ quoted = false then []
    else c :: stripComment (if c = '"' then !quoted else quoted) cs

/-- A line without leading spaces. -/
def skipSpaces (l : List Char) : List Char := l.dropWhile (· == ' ')

/-- A line without spaces at either end. -/
def trimSpaces (l : List Char) : List Char := (skipSpaces (skipSpaces l).reverse).reverse

/-- The mnemonic of a line and its operand text. -/
def splitLine (l : List Char) : List Char × List Char :=
  (l.takeWhile (· != ' '), skipSpaces (l.dropWhile (· != ' ')))

/-- The byte operand of `FEED`: `0x` and two hexadecimal digits (R105). -/
def byteOperand : List Char → Option Byte
  | ['0', 'x', c, d] =>
    match bytesOfHex [c, d] with
    | some [b] => some b
    | _ => none
  | _ => none

/-- The block operand of `C_NEXT`: 128 hexadecimal digits, byte 0 first (R105). -/
def blockOperand (l : List Char) : Option BlockPort :=
  match bytesOfHex l with
  | some bs => if bs.length = 64 then some (BitVec.ofNat 512 (beNat bs)) else none
  | none => none

/-- The text between the double quotes of `FEEDS` (R106). -/
def textOperand : List Char → Option (List Char)
  | '"' :: rest =>
    match rest.reverse with
    | '"' :: text => if text.contains '"' then none else some text.reverse
    | _ => none
  | _ => none

/-- The operations a line stands for: none for an empty line, several for a pseudo-instruction; `none` where the line
is not of the syntax (R105, R106). -/
def parseLine (line : List Char) : Option (List Instr) :=
  let (op, arg) := splitLine (trimSpaces (stripComment false line))
  if op = [] then some []
  else if op = "INIT".toList then (if arg = [] then some [.init] else none)
  else if op = "FEED0".toList then (if arg = [] then some [.feed0] else none)
  else if op = "FINAL".toList then (if arg = [] then some [.final] else none)
  else if op = "STATUS".toList then (if arg = [] then some [.status] else none)
  else if op = "C_IDLE".toList then (if arg = [] then some [.cIdle] else none)
  else if op = "C_INIT".toList then (if arg = [] then some [.cInit] else none)
  else if op = "FEED".toList then (byteOperand arg).map fun b => [.feed b]
  else if op = "C_NEXT".toList then (blockOperand arg).map fun b => [.cNext b]
  else if op = "FEEDX".toList then (bytesOfHex arg).map feedx
  else if op = "FEEDS".toList then (textOperand arg).bind feeds
  else if op = "HASH".toList then (bytesOfHex arg).map hashOps
  else if op = "C_HASH".toList then (bytesOfHex arg).map coreHashOps
  else none

/-- A program: its lines' operations in order (R105). -/
def parseProgram : List (List Char) → Option (List Instr)
  | [] => some []
  | l :: ls =>
    match parseLine l, parseProgram ls with
    | some a, some b => some (a ++ b)
    | _, _ => none

end Sys2Proof.Machine
end

