-- ==== Sys2Proof/Machine/Ports.lean ====
section
/-! DEFINITION. The output ports at an operation boundary (R90, R97, R100, R103, R293). -/

namespace Sys2Proof.Machine

/-- `cmd_ready`: between operations the command port of `CFG_FULL` is ready (R97, R293); `CFG_CORE` has none. -/
def State.cmdReady (s : State) : Bool := s.config.hasPadder

/-- `c_ready`: between operations the CORE is ready, in both configurations (R100, R293). -/
def State.cReady (_ : State) : Bool := true

/-- The response port: `none` while `rsp_valid = 0`, and in `CFG_CORE`, which has no such port (R96, R293). -/
def State.response (s : State) : Option Response := s.pad.bind Pad.rsp

/-- `rsp_valid` (R97). -/
def State.rspValid (s : State) : Bool := s.response.isSome

/-- `rsp_code[1:0]` while `rsp_valid = 1` (R96). -/
def State.rspCode (s : State) : Option (BitVec 2) := s.response.map fun r => r.code.bits

/-- `rsp_data[255:0]` while `rsp_valid = 1` (R98). -/
def State.rspData (s : State) : Option DigestPort := s.response.map Response.data

/-- `c_state` as the CORE drives it: `H[0] ‖ ... ‖ H[7]` (R103). -/
def State.coreState (s : State) : DigestPort := hashPort s.h

/-- `c_state` as the host sees it: a pin of `CFG_CORE` only (R100, R103). -/
def State.cState (s : State) : Option DigestPort :=
  match s.config with
  | .core => some s.coreState
  | .full => none

end Sys2Proof.Machine
end

