-- ==== Sys2Proof/Safety.lean ====
section
/-! DEFINITION. The terms claims use: the invariant of a state, the message accumulated so far, and what may be
compared of two states. -/

namespace Sys2Proof.Machine

/-- The pending bytes `BUF[0 .. BUFLEN-1]`, in feed order (R33). -/
def Pad.pending (p : Pad) : List Byte := p.buf.toList.take p.bufLen.val

/-- What holds of PAD between operations, beside a CORE state `h`: the buffer length follows the counter (R35), the
counter counts whole bytes (R34), `Fresh` is the initial state (R36, R217), and `UAF` records a refusal in `Finalized`
(R252, R216). -/
abbrev PadInv (h : HashState) (p : Pad) : Prop :=
  p.bufLen.val = p.bitCnt.toNat / 8 % 64 ∧ p.bitCnt.toNat % 8 = 0 ∧
  (p.phase = .fresh → h = iv ∧ p.bufLen = 0 ∧ p.bitCnt = 0 ∧ p.ovf = false) ∧
  (p.uaf = true → p.phase = .finalized)

/-- The invariant of a state; `CFG_CORE` has nothing to relate (R44). -/
abbrev State.Inv (s : State) : Prop := ∀ p ∈ s.pad, PadInv s.h p

/-- The engine has been fed exactly `m` since the last initialisation, and no `FINAL` since (R217). -/
def Accumulates (m : List Byte) (s : State) : Prop :=
  ∃ p, s.pad = some p ∧ p.phase ≠ .finalized ∧ (p.phase = .fresh → m = []) ∧
    s.h = foldBlocks iv m ∧ p.bufLen.val = m.length % 64 ∧ p.pending = m.drop (64 * (m.length / 64)) ∧
    p.bitCnt = BitVec.ofNat 64 (8 * m.length)

/-- What the source's `feed` acts on, of an engine with PAD `p` (R215). -/
def State.feedView (s : State) (p : Pad) : FeedView := ⟨s.h, p.pending, p.bitCnt⟩

/-- Two PAD units that differ at most in buffer cells at `BUFLEN` and above (R33, R47). -/
def Pad.SameLive (p q : Pad) : Prop := p.pending = q.pending ∧ { p with buf := q.buf } = q

/-- Two engines that differ at most in such cells. -/
def State.SameLive (s t : State) : Prop :=
  s.h = t.h ∧ s.host = t.host ∧
    match s.pad, t.pad with
    | none, none => True
    | some p, some q => p.SameLive q
    | _, _ => False

/-- The first 64 primes, from which the constants are derived (R24, R26). -/
def firstPrimes : List Nat :=
  [2, 3, 5, 7, 11, 13, 17, 19, 23, 29, 31, 37, 41, 43, 47, 53] ++
  [59, 61, 67, 71, 73, 79, 83, 89, 97, 101, 103, 107, 109, 113, 127, 131] ++
  [137, 139, 149, 151, 157, 163, 167, 173, 179, 181, 191, 193, 197, 199, 211, 223] ++
  [227, 229, 233, 239, 241, 251, 257, 263, 269, 271, 277, 281, 283, 293, 307, 311]

end Sys2Proof.Machine
end

