-- ==== Sys2Proof/Certificates/Slice0/Obligations.lean ====
section
/-! DEFINITION. The statements for the provers. Each formalises rules of spec/ named in its docstring. Where a rule is
the spec's own inference (marked "[derived]" there), or the statement rests on a log entry, the docstring says so. -/

open Sys2Proof Sys2Proof.Machine

/-! ## Encoding -/

/-- Words written out from R93 and R101 decode to the operations they stand for, and some illegal words of R95 do
not decode. -/
def Obligations.SpecWordsDecode : Prop :=
  decode (.cmd 0b0001000000000000#16) = .ok .init ∧
  decode (.cmd 0b0010000001100001#16) = .ok (.feed 0x61) ∧
  decode (.cmd 0b0010000011111111#16) = .ok (.feed 0xFF) ∧
  decode (.cmd 0b0011000000000000#16) = .ok .feed0 ∧
  decode (.cmd 0b0100000000000000#16) = .ok .final ∧
  decode (.cmd 0b0101000000000000#16) = .ok .status ∧
  decode (.coreOp 0b00#2 0) = .ok .cIdle ∧
  decode (.coreOp 0b01#2 0) = .ok .cInit ∧
  decode (.coreOp 0b10#2 0x80#512) = .ok (.cNext 0x80#512) ∧
  decode (.cmd 0x0000#16) = .error .illegalCommand ∧
  decode (.cmd 0xFFFF#16) = .error .illegalCommand ∧
  decode (.cmd 0x2100#16) = .error .illegalCommand

/-- Decoding the encoding of any operation gives it back, with every operand at every value (R91 to R93, R101). -/
def Obligations.DecodeOfEncodeIsIdentity : Prop := ∀ i : Instr, decode (encode i) = .ok i

/-- No two command words stand for one command: a word that decodes is the encoding of what it decodes to (R93,
R104). -/
def Obligations.CommandWordIsItsEncoding : Prop :=
  ∀ (w : CmdWord) (i : Instr), decodeCmd w = .ok i → encode i = .cmd w

/-- Which command words are illegal (R95). -/
def Obligations.IllegalCommandWords : Prop :=
  ∀ w : CmdWord, decodeCmd w = .error .illegalCommand ↔
    (fieldOp w = 0#4 ∨ 6#4 ≤ fieldOp w) ∨ fieldZero w ≠ 0#4 ∨
      ((fieldOp w = 1#4 ∨ fieldOp w = 3#4 ∨ fieldOp w = 4#4 ∨ fieldOp w = 5#4) ∧ fieldImm8 w ≠ 0#8)

/-- There are 260 legal command words (R93, R95). -/
def Obligations.LegalCommandWordCount : Prop :=
  ((List.range 65536).filter fun n => (decodeCmd (BitVec.ofNat 16 n)).toBool).length = 260

/-- The line that spells an operation stands for it (R105). The spacing of a line is the model's choice (log entry
16). -/
def Obligations.AssemblerLineParses : Prop := ∀ i : Instr, parseLine (asmLine i) = some [i]

/-- The lines of the pseudo-instructions stand for their expansions, for every byte string (R106). The spacing of a
line is the model's choice (log entry 16). -/
def Obligations.PseudoLinesExpand : Prop :=
  ∀ m : List Byte,
    parseLine ("FEEDX ".toList ++ m.flatMap hexOfByte) = some (if m = [] then [.feed0] else m.map Instr.feed) ∧
    parseLine ("HASH ".toList ++ m.flatMap hexOfByte) =
      some ([.init] ++ (if m = [] then [.feed0] else m.map Instr.feed) ++ [.final]) ∧
    parseLine ("C_HASH ".toList ++ m.flatMap hexOfByte) =
      some (.cInit :: (blocksOf (padMessage m)).map fun b => .cNext (portOfBlock b))

/-! ## The step -/

/-- A step on a presented operation runs the decoded operation on the state whose host has the rest still to present:
a command where there is a PAD, a core operation where the CORE port is the host's (R72, R97, R100). -/
def Obligations.StepRunsDecodedOperation : Prop :=
  (∀ (s : State) (p : Pad) (w : CmdWord) (rest : List HostEvent) (i : Instr),
    s.pad = some p → s.host = .present (.cmd w) :: rest → decode (.cmd w) = .ok i →
    step s = exec i { s with host := rest }) ∧
  (∀ (s : State) (code : CoreCode) (b : BlockPort) (rest : List HostEvent) (i : Instr),
    s.pad = none → s.host = .present (.coreOp code b) :: rest → decode (.coreOp code b) = .ok i →
    step s = exec i { s with host := rest })

/-- An illegal word raises `IllegalCommand` in any phase, and nothing else changes (R254). -/
def Obligations.IllegalWordRaisesIllegalCommand : Prop :=
  ∀ (s : State) (p : Pad) (w : CmdWord) (rest : List HostEvent),
    s.pad = some p → s.host = .present (.cmd w) :: rest → decodeCmd w = .error .illegalCommand →
    step s = .next { s with pad := some { p with ill := true, rsp := some ⟨.errIllegal, 0⟩ }, host := rest }

/-- `c_op = 0b11` has no transition: the spec asks a model to refuse it (R101, 93 U5; log entry 5). -/
def Obligations.ReservedCoreCodeIsRefused : Prop :=
  ∀ (s : State) (b : BlockPort) (rest : List HostEvent),
    s.pad = none → s.host = .present (.coreOp 0b11#2 b) :: rest → step s = .refused .reservedCoreOp

/-- A host cannot reach a port its configuration does not have: the commands do not exist in `CFG_CORE` (R222), and the
CORE port of `CFG_FULL` is internal (R100). That it is a refusal is the model's choice (log entry 6). -/
def Obligations.MissingPortIsRefused : Prop :=
  (∀ (s : State) (i : Instr), s.pad = none → i.isCommand = true → exec i s = .refused .noCommandPort) ∧
  (∀ (s : State) (w : CmdWord) (rest : List HostEvent),
    s.pad = none → s.host = .present (.cmd w) :: rest → step s = .refused .noCommandPort) ∧
  (∀ (s : State) (p : Pad) (code : CoreCode) (b : BlockPort) (rest : List HostEvent),
    s.pad = some p → s.host = .present (.coreOp code b) :: rest → step s = .refused .noCorePort)

/-- Every event that the configuration's host may produce is answered by a next state (R268, R304), and so is waiting
(log entry 9). -/
def Obligations.EveryLegalEventCompletes : Prop :=
  ∀ s : State, (∀ e ∈ s.host.head?, e.wf s.config = true) → ∃ t, step s = .next t ∧ t.host = s.host.tail

/-- Every accepted command gets exactly one response, at the end of its own step; without a command there is none
(R97; that a step spans one whole operation is log entry 8, that waiting drops `rsp_valid` log entry 9). -/
def Obligations.OneResponsePerCommand : Prop :=
  (∀ (s : State) (p : Pad) (w : CmdWord) (rest : List HostEvent),
    s.pad = some p → s.host = .present (.cmd w) :: rest →
    ∃ t, step s = .next t ∧ t.rspValid = true ∧ t.cmdReady = true ∧ t.host = rest) ∧
  (∀ s t : State, s.host = [] → step s = .next t → t.rspValid = false) ∧
  (∀ (s t : State) (rest : List HostEvent), s.host = .rst :: rest → step s = .next t → t.rspValid = false)

/-- The response data of each kind of response (R98): the digest, the status word widened by zeros, or 0; a `FEED` that
wraps the counter is answered `OK` like any other. -/
def Obligations.ResponseDataByCommand : Prop :=
  ∀ (s t : State) (p : Pad) (w : CmdWord) (rest : List HostEvent),
    s.pad = some p → s.host = .present (.cmd w) :: rest → step s = .next t →
    ∃ r, t.response = some r ∧
      (r.code ≠ .ok → r.data = 0) ∧
      (decodeCmd w = .ok .final → r.code = .ok ∧ r.data = bytesPort (digest t.h)) ∧
      (decodeCmd w = .ok .status →
        r.code = .ok ∧ r.data.extractLsb' 0 16 = statusWord p ∧ r.data.extractLsb' 16 240 = 0) ∧
      (decodeCmd w ≠ .ok .final → decodeCmd w ≠ .ok .status → r.data = 0) ∧
      (∀ b : Byte, decodeCmd w = .ok (.feed b) → p.phase ≠ .finalized → r.code = .ok)

/-- `HAS_PADDER` is a parameter: no step changes the configuration (R7). -/
def Obligations.StepKeepsConfiguration : Prop :=
  ∀ s t : State, step s = .next t → t.config = s.config

/-! ## Reset -/

/-- The values the spec gives the state after reset in `CFG_FULL`, and `H` in `CFG_CORE` (R45, R290). -/
def Obligations.ResetStateIsFresh : Prop :=
  State.reset.h = iv ∧
  (∃ p, State.reset.pad = some p ∧ p.bufLen = 0 ∧ p.bitCnt = 0 ∧ p.phase = .fresh ∧ p.uaf = false ∧
    p.ovf = false ∧ p.ill = false ∧ statusWord p = 0x0000#16) ∧
  (State.resetOf .core).h = iv ∧ (State.resetOf .core).pad = none

/-- The ports after `rst` (R293): the command port ready where there is one, no response, the CORE ready, and `c_state`
shows `IV`, whose value is general knowledge (log entry 13). -/
def Obligations.PortsAfterReset : Prop :=
  ∀ (s : State) (rest : List HostEvent), s.host = .rst :: rest →
    ∃ t, step s = .next t ∧ t.config = s.config ∧ (t.config = .full → t.cmdReady = true) ∧ t.rspValid = false ∧
      t.cReady = true ∧ t.coreState = 0x6A09E667BB67AE853C6EF372A54FF53A510E527F9B05688C1F83D9AB5BE0CD19#256

/-- `rst` in the middle of anything gives the reset state and no response; a command presented after it is still to
come (R290, R292). -/
def Obligations.RstGivesResetState : Prop :=
  ∀ (s : State) (rest : List HostEvent), s.host = .rst :: rest →
    ∃ t, step s = .next t ∧ t.h = iv ∧ t.host = rest ∧ t.rspValid = false ∧
      (s.pad = none → t.pad = none) ∧
      (s.pad ≠ none → ∃ p, t.pad = some p ∧ p.bufLen = 0 ∧ p.bitCnt = 0 ∧ p.phase = .fresh ∧ p.uaf = false ∧
        p.ovf = false ∧ p.ill = false)

/-- The state after `INIT` is the state after `rst` in every item the spec gives a reset value; `C_INIT` likewise
gives the `H` of `rst` in `CFG_CORE` (R291). `INIT` responds, `rst` does not. -/
def Obligations.InitGivesResetState : Prop :=
  (∀ (s : State) (p : Pad), s.pad = some p →
    ∃ t q, exec .init s = .next t ∧ t.pad = some q ∧ q.rsp = some ⟨.ok, 0⟩ ∧
      ∃ r, s.applyReset.pad = some r ∧ r.rsp = none ∧ t.h = s.applyReset.h ∧
        { q with buf := r.buf, rsp := r.rsp } = r) ∧
  (∀ s : State, s.pad = none → ∃ t, exec .cInit s = .next t ∧ t.h = s.applyReset.h ∧ s.applyReset.pad = none)

/-! ## The commands -/

/-- `INIT`, in any phase: all its writes, and everything else unchanged (R210). -/
def Obligations.InitResult : Prop :=
  ∀ (s : State) (p : Pad), s.pad = some p →
    exec .init s = .next
      { h := iv
        pad := some { buf := p.buf, bufLen := 0, bitCnt := 0, phase := .fresh, uaf := false, ovf := false, ill := false
                      rsp := some ⟨.ok, 0⟩ }
        host := s.host }

/-- `FEED imm8` (R211). In `Finalized` it raises `UseAfterFinalize` and writes nothing else. Otherwise the byte is
stored and counted; a byte that does not fill the buffer leaves `H` alone, and the 64th compresses the buffer inside
its own `FEED` and empties it. -/
def Obligations.FeedResult : Prop :=
  (∀ (s : State) (p : Pad) (b : Byte), s.pad = some p → p.phase = .finalized →
    exec (.feed b) s = .next { s with pad := some { p with uaf := true, rsp := some ⟨.errUaf, 0⟩ } }) ∧
  (∀ (s : State) (p : Pad) (b : Byte), s.pad = some p → p.phase ≠ .finalized → p.bufLen.val < 63 →
    ∃ q, exec (.feed b) s = .next { s with pad := some q } ∧
      q.buf = p.buf.set p.bufLen.val b p.bufLen.isLt ∧ q.bufLen.val = p.bufLen.val + 1 ∧ q.bitCnt = p.bitCnt + 8 ∧
      q.ovf = (p.ovf || p.bitCnt == 0xFFFFFFFFFFFFFFF8#64) ∧ q.phase = .accumulating ∧ q.uaf = p.uaf ∧
      q.ill = p.ill ∧ q.rsp = some ⟨.ok, 0⟩) ∧
  (∀ (s : State) (p : Pad) (b : Byte) (block : Block),
    s.pad = some p → p.phase ≠ .finalized → p.bufLen.val = 63 → block.toList = p.pending ++ [b] →
    ∃ q, exec (.feed b) s = .next { s with h := compress s.h block, pad := some q } ∧
      q.bufLen = 0 ∧ q.bitCnt = p.bitCnt + 8 ∧ q.ovf = (p.ovf || p.bitCnt == 0xFFFFFFFFFFFFFFF8#64) ∧
      q.buf = block ∧ q.phase = .accumulating ∧ q.uaf = p.uaf ∧ q.ill = p.ill ∧ q.rsp = some ⟨.ok, 0⟩)

/-- `UseAfterFinalize` (R252): raised by `FEED` and `FEED0` in `Finalized`, it is the flag and the response and nothing
else, and no other command is ever answered with it. -/
def Obligations.FeedAfterFinalRaises : Prop :=
  (∀ (s : State) (p : Pad), s.pad = some p → p.phase = .finalized →
    (∀ b : Byte, exec (.feed b) s = .next { s with pad := some { p with uaf := true, rsp := some ⟨.errUaf, 0⟩ } }) ∧
    exec .feed0 s = .next { s with pad := some { p with uaf := true, rsp := some ⟨.errUaf, 0⟩ } }) ∧
  (∀ (s t : State) (p q : Pad) (i : Instr) (d : DigestPort),
    s.pad = some p → i.isCommand = true → exec i s = .next t → t.pad = some q → q.rsp = some ⟨.errUaf, d⟩ →
    p.phase = .finalized ∧ (i = .feed0 ∨ ∃ b, i = .feed b))

/-- The `FEED` that wraps the counter: `BITCNT` becomes 0, `OVF` is set, the response is `OK`, and the same `FEED` fills
the buffer (R256, R35). -/
def Obligations.LengthOverflowWraps : Prop :=
  ∀ (s : State) (p : Pad) (b : Byte),
    s.Inv → s.pad = some p → p.phase ≠ .finalized → p.bitCnt.toNat = 2 ^ 64 - 8 →
    ∃ t q, exec (.feed b) s = .next t ∧ t.pad = some q ∧ q.bitCnt = 0 ∧ q.ovf = true ∧ q.bufLen = 0 ∧
      q.rsp = some ⟨.ok, 0⟩ ∧ ∀ block : Block, block.toList = p.pending ++ [b] → t.h = compress s.h block

/-- `FEED0` (R212): only the transition, and everything else unchanged; in `Finalized` it raises `UseAfterFinalize`. -/
def Obligations.FeedEmptyChunkResult : Prop :=
  ∀ (s : State) (p : Pad), s.pad = some p →
    exec .feed0 s = .next { s with pad := some (
      if p.phase = .finalized then { p with uaf := true, rsp := some ⟨.errUaf, 0⟩ }
      else { p with phase := .accumulating, rsp := some ⟨.ok, 0⟩ }) }

/-- `FINAL` (R213, R144). The first one compresses one block (at most 55 pending bytes) or two: the pending bytes, the
marker, the zeros and the count; it enters `Finalized` and returns the digest. A later one writes nothing and returns
the digest. -/
def Obligations.FinalResult : Prop :=
  (∀ (s : State) (p : Pad) (block : Block),
    s.pad = some p → p.phase ≠ .finalized → p.bufLen.val ≤ 55 →
    block.toList = p.pending ++ [0x80] ++ List.replicate (zeroFill p.bufLen.val) 0 ++ be64Bytes p.bitCnt →
    exec .final s = .next
      { s with
        h := compress s.h block
        pad := some { p with phase := .finalized, rsp := some ⟨.ok, bytesPort (digest (compress s.h block))⟩ } }) ∧
  (∀ (s : State) (p : Pad) (block₁ block₂ : Block),
    s.pad = some p → p.phase ≠ .finalized → 56 ≤ p.bufLen.val →
    block₁.toList ++ block₂.toList =
      p.pending ++ [0x80] ++ List.replicate (zeroFill p.bufLen.val) 0 ++ be64Bytes p.bitCnt →
    exec .final s = .next
      { s with
        h := compress (compress s.h block₁) block₂
        pad := some { p with
          phase := .finalized
          rsp := some ⟨.ok, bytesPort (digest (compress (compress s.h block₁) block₂))⟩ } }) ∧
  (∀ (s : State) (p : Pad), s.pad = some p → p.phase = .finalized →
    exec .final s = .next { s with pad := some { p with rsp := some ⟨.ok, bytesPort (digest s.h)⟩ } })

/-- The first `FINAL` of any state with a PAD has blocks to compress as `FinalResult` describes them, so it completes
there (R213, R143, R304). -/
def Obligations.FinalAlwaysCompletes : Prop :=
  ∀ (s : State) (p : Pad), s.pad = some p →
    ∃ t q, exec .final s = .next t ∧ t.pad = some q ∧ q = { p with phase := .finalized, rsp := q.rsp } ∧
      q.rsp = some ⟨.ok, bytesPort (digest t.h)⟩ ∧ t.host = s.host

/-- Twice in a row is once, the response included (R69, which the spec infers from R210, R212, R213, R214 and R191):
`INIT`, `FEED0`, `FINAL`, `STATUS`, `C_INIT`. -/
def Obligations.IdempotentOperations : Prop :=
  ∀ i ∈ [Instr.init, .feed0, .final, .status, .cInit], ∀ s t : State, exec i s = .next t → exec i t = .next t

/-- `STATUS`: the response carries the status word, and nothing is written (R214). -/
def Obligations.StatusResult : Prop :=
  ∀ (s : State) (p : Pad), s.pad = some p →
    exec .status s = .next { s with pad := some { p with rsp := some ⟨.ok, (statusWord p).zeroExtend 256⟩ } }

/-- The status word as a number, and its fields (R38); it is 0 after reset, and `STATUS` returns it. -/
def Obligations.StatusWordFormula : Prop :=
  statusWord Pad.reset = 0x0000#16 ∧
  (∀ (s : State) (p : Pad), s.pad = some p →
    ∃ t, exec .status s = .next t ∧ t.rspData = some ((statusWord p).zeroExtend 256)) ∧
  ∀ p : Pad,
    (statusWord p).toNat =
      (match p.phase with | .fresh => 0 | .accumulating => 1 | .finalized => 2) +
        4 * p.uaf.toNat + 8 * p.ovf.toNat + 16 * p.ill.toNat + 256 * p.bufLen.val ∧
    (statusWord p).extractLsb' 0 2 = (match p.phase with | .fresh => 0#2 | .accumulating => 1#2 | .finalized => 2#2) ∧
    (statusWord p).extractLsb' 2 1 = BitVec.ofBool p.uaf ∧
    (statusWord p).extractLsb' 3 1 = BitVec.ofBool p.ovf ∧ (statusWord p).extractLsb' 4 1 = BitVec.ofBool p.ill ∧
    (statusWord p).extractLsb' 5 3 = 0 ∧ (statusWord p).extractLsb' 8 6 = BitVec.ofNat 6 p.bufLen.val ∧
    (statusWord p).extractLsb' 14 2 = 0

/-! ## The core operations -/

/-- `C_IDLE` changes no state (R101); `C_INIT` writes `H <- IV` and changes nothing else (R191). -/
def Obligations.CoreIdleAndInitResult : Prop :=
  ∀ s : State, exec .cIdle s = .next s ∧ exec .cInit s = .next { s with h := iv }

/-- `C_NEXT`: `H <- Compress(H, Block)` with block byte `j` from the pins `c_block[511 - 8*j : 504 - 8*j]`, and
everything else unchanged (R192, R64). -/
def Obligations.CoreNextResult : Prop :=
  ∀ (s : State) (pins : BlockPort) (block : Block),
    (∀ (j : Nat) (h : j < 64), block[j] = pins.extractLsb' (504 - 8 * j) 8) →
    exec (.cNext pins) s = .next { s with h := compress s.h block }

/-- A block laid on the pins is the block that `C_NEXT` compresses, so the drain of the 64th byte is one `C_NEXT`
(R64, R193). -/
def Obligations.DrainIsOneCoreNext : Prop :=
  ∀ (s : State) (p : Pad) (b : Byte) (block : Block),
    s.pad = some p → p.phase ≠ .finalized → p.bufLen.val = 63 → block.toList = p.pending ++ [b] →
    ∃ t u, exec (.feed b) s = .next t ∧ exec (.cNext (portOfBlock block)) s = .next u ∧ t.h = u.h

/-! ## Laws of the whole machine -/

/-- The invariant of a state holds at reset (R34, R35, R36). -/
def Obligations.ResetHasInvariant : Prop := ∀ c : Configuration, (State.resetOf c).Inv

/-- Every step keeps it: the buffer length follows the counter, the counter counts whole bytes, `Fresh` is the initial
state, and `UAF` is set only in `Finalized` (R34 to R36, R252; the spec marks parts of R34 and R35 as its inference). -/
def Obligations.StepKeepsInvariant : Prop :=
  ∀ s t : State, s.Inv → step s = .next t → t.Inv

/-- The lifecycle: next phase, response and flags, for every command and every illegal word in every phase, and reset.
The spec infers its table R216 from R210 to R214 and R254. -/
def Obligations.LifecycleTable : Prop :=
  (∀ (s : State) (p : Pad) (w : CmdWord) (rest : List HostEvent),
    s.pad = some p → s.host = .present (.cmd w) :: rest →
    ∃ t q r, step s = .next t ∧ t.pad = some q ∧ q.rsp = some r ∧
      match decodeCmd w with
      | .ok .init => q.phase = .fresh ∧ r = ⟨.ok, 0⟩ ∧ q.uaf = false ∧ q.ill = false ∧ q.ovf = false
      | .ok (.feed _) | .ok .feed0 =>
        if p.phase = .finalized then q.phase = .finalized ∧ r = ⟨.errUaf, 0⟩ ∧ q.uaf = true ∧ q.ill = p.ill
        else q.phase = .accumulating ∧ r = ⟨.ok, 0⟩ ∧ q.uaf = p.uaf ∧ q.ill = p.ill
      | .ok .final =>
        q.phase = .finalized ∧ r = ⟨.ok, bytesPort (digest t.h)⟩ ∧ (p.phase = .finalized → t.h = s.h) ∧
          q.uaf = p.uaf ∧ q.ill = p.ill
      | .ok .status =>
        q.phase = p.phase ∧ r = ⟨.ok, (statusWord p).zeroExtend 256⟩ ∧ q.uaf = p.uaf ∧ q.ill = p.ill
      | .ok .cIdle | .ok .cInit | .ok (.cNext _) => False
      | .error _ => q.phase = p.phase ∧ r = ⟨.errIllegal, 0⟩ ∧ q.ill = true ∧ q.uaf = p.uaf) ∧
  (∀ (s : State) (p : Pad) (rest : List HostEvent), s.pad = some p → s.host = .rst :: rest →
    ∃ t q, step s = .next t ∧ t.pad = some q ∧ q.phase = .fresh)

/-- What can write `H` (R21, R193): `rst`, `INIT`, `C_INIT`, or a compression inside the `FEED` of a 64th byte, the
first `FINAL`, or a `C_NEXT`. -/
def Obligations.OnlyListedWritersChangeH : Prop :=
  ∀ s t : State, step s = .next t → t.h ≠ s.h →
    (t.h = iv ∧ ∃ e, s.host.head? = some e ∧
      (e = .rst ∨ e = .present (encode .init) ∨ ∃ b, e = .present (.coreOp 0b01#2 b))) ∨
    (∃ block, t.h = compress s.h block ∧ ∃ e, s.host.head? = some e ∧
      ((∃ p b, s.pad = some p ∧ e = .present (encode (.feed b)) ∧ p.phase ≠ .finalized ∧ p.bufLen.val = 63) ∨
       (∃ p, s.pad = some p ∧ e = .present (encode .final) ∧ p.phase ≠ .finalized ∧ p.bufLen.val ≤ 55) ∨
       (∃ pins, e = .present (encode (.cNext pins)) ∧ block = blockOfPort pins))) ∨
    (∃ block₁ block₂, t.h = compress (compress s.h block₁) block₂ ∧
      ∃ p, s.pad = some p ∧ s.host.head? = some (.present (encode .final)) ∧ p.phase ≠ .finalized ∧
        56 ≤ p.bufLen.val)

/-- A sticky flag is cleared only by reset and by `INIT`, and none changes what a command computes (R37). -/
def Obligations.FlagsAreStickyAndInert : Prop :=
  (∀ (s t : State) (p : Pad), s.pad = some p → step s = .next t →
    s.host.head? ≠ some .rst → s.host.head? ≠ some (.present (encode .init)) →
    ∃ q, t.pad = some q ∧ (p.uaf = true → q.uaf = true) ∧ (p.ovf = true → q.ovf = true) ∧
      (p.ill = true → q.ill = true)) ∧
  (∀ (s : State) (p : Pad) (i : Instr) (uaf ovf ill : Bool) (t : State) (q : Pad),
    s.pad = some p → i ≠ .status → exec i s = .next t → t.pad = some q →
    ∃ t' q', exec i { s with pad := some { p with uaf := uaf, ovf := ovf, ill := ill } } = .next t' ∧
      t'.pad = some q' ∧ t'.h = t.h ∧ t'.host = t.host ∧ { q' with uaf := q.uaf, ovf := q.ovf, ill := q.ill } = q)

/-- In `Finalized` nothing but `rst` and `INIT` touches the message, the digest or the phase (R220). -/
def Obligations.FinalizedIsTerminal : Prop :=
  ∀ (s t : State) (p : Pad), s.pad = some p → p.phase = .finalized → step s = .next t →
    s.host.head? ≠ some .rst → s.host.head? ≠ some (.present (encode .init)) →
    t.h = s.h ∧ ∃ q, t.pad = some q ∧ q.buf = p.buf ∧ q.bufLen = p.bufLen ∧ q.bitCnt = p.bitCnt ∧ q.phase = .finalized ∧
      q.ovf = p.ovf ∧
      (s.host.head? = some (.present (encode .final)) → q.rsp = some ⟨.ok, bytesPort (digest s.h)⟩)

/-- Cells of `BUF` at `BUFLEN` and above are never read: two engines that differ only there answer alike, and go on
differing only there (R33, R47). -/
def Obligations.StaleBufferCellsAreNeverRead : Prop :=
  ∀ s t s' : State, s.SameLive t → step s = .next s' →
    ∃ t', step t = .next t' ∧ s'.SameLive t' ∧ s'.response = t'.response ∧ s'.cState = t'.cState

/-- The accumulation invariant (R217, which the spec infers from R210, R211, R212 and R45): from a state that has
accumulated `m`, each kind of event leads to a state that has accumulated the message it should. That a step with
nothing presented is an idle step, which holds this state (R267), is the model's choice (log entry 9). -/
def Obligations.AccumulationInvariant : Prop :=
  (∀ (s : State) (p : Pad), s.pad = some p → s.host.head? = some .rst ∨ s.host.head? = some (.present (encode .init)) →
    ∃ t, step s = .next t ∧ Accumulates [] t) ∧
  (∀ (s : State) (m : List Byte) (b : Byte),
    Accumulates m s → s.host.head? = some (.present (encode (.feed b))) →
    ∃ t, step s = .next t ∧ Accumulates (m ++ [b]) t) ∧
  (∀ (s : State) (m : List Byte) (w : CmdWord),
    Accumulates m s → s.host.head? = some (.present (.cmd w)) →
    decodeCmd w = .ok .feed0 ∨ decodeCmd w = .ok .status ∨ decodeCmd w = .error .illegalCommand →
    ∃ t, step s = .next t ∧ Accumulates m t) ∧
  (∀ (s : State) (m : List Byte), Accumulates m s → s.host = [] → ∃ t, step s = .next t ∧ Accumulates m t)

/-- The digest law (R218, which the spec infers from R217, R213 and R145): the first `FINAL` after accumulating `m`
returns `SHA256DE(m)`, and so does the next one. -/
def Obligations.FinalReturnsDigestOfMessage : Prop :=
  ∀ (s : State) (m : List Byte), Accumulates m s →
    ∃ t q, exec .final s = .next t ∧ t.pad = some q ∧ q.rsp = some ⟨.ok, bytesPort (sha256de m)⟩ ∧
      ∃ u r, exec .final t = .next u ∧ u.pad = some r ∧ r.rsp = some ⟨.ok, bytesPort (sha256de m)⟩

/-- `HASH m` returns `SHA256DE(m)` from any state of `CFG_FULL`, whatever was in progress (R106, R218). -/
def Obligations.HashReturnsDigest : Prop :=
  ∀ (m : List Byte) (s : State) (p : Pad) (rest : List HostEvent),
    s.pad = some p → s.host = issue (hashOps m) ++ rest →
    ∃ t q, core.run (hashOps m).length s = .next t ∧ t.host = rest ∧ t.pad = some q ∧ q.phase = .finalized ∧
      q.rsp = some ⟨.ok, bytesPort (sha256de m)⟩

/-- `C_HASH m` leaves `SHA256DE(m)` on `c_state` from any state of `CFG_CORE` (R106, R103). -/
def Obligations.CoreHashReturnsDigest : Prop :=
  ∀ (m : List Byte) (s : State) (rest : List HostEvent),
    s.pad = none → s.host = issue (coreHashOps m) ++ rest →
    ∃ t, core.run (coreHashOps m).length s = .next t ∧ t.host = rest ∧ t.cState = some (bytesPort (sha256de m))

/-- The chunk law (R215, which the spec infers from R211 by induction): the `FEED` commands of a chunk (`FEED0` for
the empty one) act as the source's `feed`. -/
def Obligations.ChunkLaw : Prop :=
  ∀ (c : List Byte) (s : State) (p : Pad) (rest : List HostEvent),
    s.Inv → s.pad = some p → p.phase ≠ .finalized → s.host = issue (feedx c) ++ rest →
    ∃ t q, core.run (feedx c).length s = .next t ∧ t.host = rest ∧ t.pad = some q ∧
      t.feedView q = feedChunk c (s.feedView p) ∧ q.phase = .accumulating ∧
      q.ovf = (p.ovf || decide (2 ^ 64 ≤ p.bitCnt.toNat + 8 * c.length))

/-- From `Finalized` the same commands change nothing but `UAF` and the response (R215, from R211, R212 and R252). -/
def Obligations.ChunkAfterFinalOnlySetsFlag : Prop :=
  ∀ (c : List Byte) (s : State) (p : Pad) (rest : List HostEvent),
    s.pad = some p → p.phase = .finalized → s.host = issue (feedx c) ++ rest →
    core.run (feedx c).length s = .next
      { s with pad := some { p with uaf := true, rsp := some ⟨.errUaf, 0⟩ }, host := rest }

/-! ## Padding, schedule, compression, arithmetic -/

/-- The fill count (R140): the non-negative remainder of `55 - n` by 64, a function of `n mod 64`, and the least count
that reaches 56 modulo 64 after the marker. -/
def Obligations.ZeroFillIsLeast : Prop :=
  ∀ n : Nat, (zeroFill n : Int) = (55 - (n : Int)) % 64 ∧ zeroFill n ≤ 63 ∧ zeroFill n = zeroFill (n % 64) ∧
    (n + 1 + zeroFill n) % 64 = 56 ∧ ∀ k, (n + 1 + k) % 64 = 56 → zeroFill n ≤ k

/-- The padded message, its length and its number of blocks, which the spec infers from R140 (R142, R141). -/
def Obligations.PaddedMessage : Prop :=
  ∀ m : List Byte,
    padMessage m =
      m ++ [0x80] ++ List.replicate (zeroFill m.length) 0 ++ be64Bytes (BitVec.ofNat 64 (8 * m.length)) ∧
    (padMessage m).length = m.length + 1 + zeroFill m.length + 8 ∧ (padMessage m).length % 64 = 0 ∧
    (blocksOf (padMessage m)).length = if m.length % 64 ≤ 55 then m.length / 64 + 1 else m.length / 64 + 2

/-- The tail is the pending bytes, the marker, the zeros and the count, of one block or two (R144). -/
def Obligations.TailIsConcatenation : Prop :=
  ∀ (buf : Vector Byte 64) (r : Nat) (cnt : BitVec 64), r ≤ 63 →
    tail buf r cnt = buf.toList.take r ++ [0x80] ++ List.replicate (zeroFill r) 0 ++ be64Bytes cnt

/-- The splitting law (R145, which the spec infers from R140, R142 and R144): the whole blocks of a message and the
tail of the rest are the padded message. -/
def Obligations.PaddingSplits : Prop :=
  ∀ (m : List Byte) (buf : Vector Byte 64),
    buf.toList.take (m.length % 64) = m.drop (64 * (m.length / 64)) →
    padMessage m = m.take (64 * (m.length / 64)) ++ tail buf (m.length % 64) (BitVec.ofNat 64 (8 * m.length))

/-- The message schedule: 64 words, the first 16 big-endian from the block, the others by the recurrence (R163, R164,
R165). -/
def Obligations.ScheduleRecurrence : Prop :=
  ∀ b : Block,
    (sched b).length = 64 ∧
    (∀ (i : Nat) (h : i < 16), wAt (sched b) i = b[4 * i] ++ b[4 * i + 1] ++ b[4 * i + 2] ++ b[4 * i + 3]) ∧
    (∀ t : Nat, 16 ≤ t → t ≤ 63 →
      wAt (sched b) t = sigma1 (wAt (sched b) (t - 2)) + wAt (sched b) (t - 7) + sigma0 (wAt (sched b) (t - 15)) +
        wAt (sched b) (t - 16))

/-- A compression: `ROUND_INIT`, one round with `T1` and `T2` from the old registers and one simultaneous assignment,
the feedback, which adds to the pre-round state, and the 64 rounds in order between them (R186 to R190). -/
def Obligations.RoundEquations : Prop :=
  (∀ s : HashState, roundInit s = ⟨s[0], s[1], s[2], s[3], s[4], s[5], s[6], s[7]⟩) ∧
  (∀ (w : List Word) (r : Work) (t : Nat), t ≤ 63 →
    let t1 := r.h + bigSigma1 r.e + ch r.e r.f r.g + kAt t + wAt w t
    let t2 := bigSigma0 r.a + maj r.a r.b r.c
    roundAt w r t = ⟨t1 + t2, r.a, r.b, r.c, r.d + t1, r.e, r.f, r.g⟩) ∧
  (∀ (s : HashState) (r : Work), (feedback s r).toList =
    [s[0] + r.a, s[1] + r.b, s[2] + r.c, s[3] + r.d, s[4] + r.e, s[5] + r.f, s[6] + r.g, s[7] + r.h]) ∧
  (∀ (s : HashState) (b : Block),
    compress s b = feedback s ((List.range 64).foldl (roundAt (sched b)) (roundInit s)))

/-- The spec's worked compression: the block of `"abc"` from `IV` (R190); the constants are general knowledge (log entry
13). -/
def Obligations.CompressOfSpecBlock : Prop :=
  compress iv (blockAt (padMessage [0x61, 0x62, 0x63]) 0) =
    #v[0xBA7816BF#32, 0x8F01CFEA#32, 0x414140DE#32, 0x5DAE2223#32, 0xB00361A3#32, 0x96177A9C#32, 0xB410FF61#32,
       0xF20015AD#32]

/-- The constants are the first 32 fractional bits of the square roots of the first 8 primes and of the cube roots of
the first 64 (R24, R26; the spec marks the values and the formulas as general knowledge): `r` is the integer part. -/
def Obligations.ConstantsAreRootFractions : Prop :=
  firstPrimes = (List.range 312).filter (fun n => decide (Nat.Prime n)) ∧
  (∀ i : Fin 8, ∃ r : Fin 8,
    (r.val * 2 ^ 32 + iv[i].toNat) ^ 2 ≤ firstPrimes.getD i.val 0 * 2 ^ 64 ∧
    firstPrimes.getD i.val 0 * 2 ^ 64 < (r.val * 2 ^ 32 + iv[i].toNat + 1) ^ 2) ∧
  (∀ t : Fin 64, ∃ r : Fin 8,
    (r.val * 2 ^ 32 + (kAt t.val).toNat) ^ 3 ≤ firstPrimes.getD t.val 0 * 2 ^ 96 ∧
    firstPrimes.getD t.val 0 * 2 ^ 96 < (r.val * 2 ^ 32 + (kAt t.val).toNat + 1) ^ 3)

/-- `add32` is the exact sum modulo `2^32`, whatever the order of its operands, which the spec infers from the ring laws
(R120). -/
def Obligations.AddIsSumModulo : Prop :=
  ∀ xs ys : List Word, (add32 xs).toNat = (xs.map BitVec.toNat).sum % 2 ^ 32 ∧ (xs.Perm ys → add32 xs = add32 ys)

/-- `rotr32` (R121): the sum of the two shifts of the unbounded integer, modulo `2^32`; bit `i` of the result is bit
`(i + n) mod 32` of the operand. -/
def Obligations.RotationBits : Prop :=
  ∀ (x : Word) (n : Nat), 1 ≤ n → n ≤ 31 →
    (rotr32 x n).toNat = (x.toNat / 2 ^ n + x.toNat * 2 ^ (32 - n)) % 2 ^ 32 ∧
    ∀ i : Nat, i < 32 → (rotr32 x n).getLsbD i = x.getLsbD ((i + n) % 32)

/-- The four sigma functions, bit by bit: three rotations, or two rotations and a shift that loses the low bits (R160,
R161, R180, R181). -/
def Obligations.SigmaBits : Prop :=
  ∀ (x : Word) (i : Nat), i < 32 →
    (sigma0 x).getLsbD i = (x.getLsbD ((i + 7) % 32) ^^ x.getLsbD ((i + 18) % 32) ^^ x.getLsbD (i + 3)) ∧
    (sigma1 x).getLsbD i = (x.getLsbD ((i + 17) % 32) ^^ x.getLsbD ((i + 19) % 32) ^^ x.getLsbD (i + 10)) ∧
    (bigSigma0 x).getLsbD i =
      (x.getLsbD ((i + 2) % 32) ^^ x.getLsbD ((i + 13) % 32) ^^ x.getLsbD ((i + 22) % 32)) ∧
    (bigSigma1 x).getLsbD i =
      (x.getLsbD ((i + 6) % 32) ^^ x.getLsbD ((i + 11) % 32) ^^ x.getLsbD ((i + 25) % 32))

/-- `Ch` and `Maj`, bit by bit (R182, R183). -/
def Obligations.ChooseAndMajorityBits : Prop :=
  ∀ (x y z : Word) (i : Nat),
    (ch x y z).getLsbD i = (if x.getLsbD i then y.getLsbD i else z.getLsbD i) ∧
    (maj x y z).getLsbD i = ((x.getLsbD i && y.getLsbD i) || (x.getLsbD i && z.getLsbD i) ||
      (y.getLsbD i && z.getLsbD i))

/-- Big-endian conversion of four bytes to a word, of a word to four bytes and back, and of a 64-bit value to eight
bytes (R126, R127, R128). -/
def Obligations.WordBytesRoundTrip : Prop :=
  (∀ b0 b1 b2 b3 : Byte,
    (be32 b0 b1 b2 b3).toNat = b0.toNat * 2 ^ 24 + b1.toNat * 2 ^ 16 + b2.toNat * 2 ^ 8 + b3.toNat ∧
    be32Bytes (be32 b0 b1 b2 b3) = [b0, b1, b2, b3]) ∧
  (∀ w : Word, be32 (be32Byte w 0) (be32Byte w 1) (be32Byte w 2) (be32Byte w 3) = w ∧
    be32Bytes w = [w.extractLsb' 24 8, w.extractLsb' 16 8, w.extractLsb' 8 8, w.extractLsb' 0 8]) ∧
  (∀ v : BitVec 64, be64Bytes v =
    [v.extractLsb' 56 8, v.extractLsb' 48 8, v.extractLsb' 40 8, v.extractLsb' 32 8, v.extractLsb' 24 8,
     v.extractLsb' 16 8, v.extractLsb' 8 8, v.extractLsb' 0 8])

/-- The wide ports (R64, R66). State word `i` stands at bits `[255 - 32*i : 224 - 32*i]` of the digest on `rsp_data`
and of `c_state`, digest byte `j` at `[255 - 8*j : 248 - 8*j]`; block byte `j` stands at `c_block[511 - 8*j : 504 -
8*j]`, so that schedule word `i` is `c_block[511 - 32*i : 480 - 32*i]`; each port is the big-endian reading of its
bytes. -/
def Obligations.PortPlacement : Prop :=
  (∀ h : HashState,
    (∀ (i : Nat) (hi : i < 8), (bytesPort (digest h)).extractLsb' (224 - 32 * i) 32 = h[i]) ∧
    (∀ (j : Nat), j < 32 → (bytesPort (digest h)).extractLsb' (248 - 8 * j) 8 = (digest h).getD j 0) ∧
    (∀ (i k : Nat) (hi : i < 8), k < 4 → (digest h).getD (4 * i + k) 0 = be32Byte h[i] k) ∧
    hashPort h = bytesPort (digest h) ∧ (bytesPort (digest h)).toNat = beNat (digest h)) ∧
  (∀ pins : BlockPort,
    (∀ (j : Nat) (hj : j < 64), (blockOfPort pins)[j] = pins.extractLsb' (504 - 8 * j) 8) ∧
    (∀ i : Nat, i < 16 → wAt (sched (blockOfPort pins)) i = pins.extractLsb' (480 - 32 * i) 32) ∧
    beNat (blockOfPort pins).toList = pins.toNat)
end

