-- ==== Sys2Proof/Laws/State.lean ====
section
/-! SUPPORT. What each named update of a record does to each field. -/

namespace Sys2Proof.Machine

section StateUpdates
variable (h : HashState) (p : Pad) (l : List HostEvent) (b : Block) (c : Condition) (s : State)

@[simp] theorem State.setH_h : (s.setH h).h = h := rfl
@[simp] theorem State.setH_pad : (s.setH h).pad = s.pad := rfl
@[simp] theorem State.setH_host : (s.setH h).host = s.host := rfl
@[simp] theorem State.setPad_h : (s.setPad p).h = s.h := rfl
@[simp] theorem State.setPad_pad : (s.setPad p).pad = some p := rfl
@[simp] theorem State.setPad_host : (s.setPad p).host = s.host := rfl
@[simp] theorem State.setHost_h : (s.setHost l).h = s.h := rfl
@[simp] theorem State.setHost_pad : (s.setHost l).pad = s.pad := rfl
@[simp] theorem State.setHost_host : (s.setHost l).host = l := rfl
@[simp] theorem State.raise_h : (s.raise c p).h = s.h := rfl
@[simp] theorem State.raise_pad : (s.raise c p).pad = some (p.raise c) := rfl
@[simp] theorem State.raise_host : (s.raise c p).host = s.host := rfl
@[simp] theorem State.coreInit_h : s.coreInit.h = iv := rfl
@[simp] theorem State.coreInit_pad : s.coreInit.pad = s.pad := rfl
@[simp] theorem State.coreInit_host : s.coreInit.host = s.host := rfl
@[simp] theorem State.coreNext_h : (s.coreNext b).h = compress s.h b := rfl
@[simp] theorem State.coreNext_pad : (s.coreNext b).pad = s.pad := rfl
@[simp] theorem State.coreNext_host : (s.coreNext b).host = s.host := rfl
@[simp] theorem State.idle_h : s.idle.h = s.h := rfl
@[simp] theorem State.idle_pad : s.idle.pad = s.pad.map Pad.dropResponse := rfl
@[simp] theorem State.idle_host : s.idle.host = s.host := rfl

end StateUpdates

section PadUpdates
variable (b : Byte) (code : RspCode) (data : DigestPort) (ph : Phase) (p : Pad)

@[simp] theorem Pad.respond_buf : (p.respond code data).buf = p.buf := rfl
@[simp] theorem Pad.respond_bufLen : (p.respond code data).bufLen = p.bufLen := rfl
@[simp] theorem Pad.respond_bitCnt : (p.respond code data).bitCnt = p.bitCnt := rfl
@[simp] theorem Pad.respond_phase : (p.respond code data).phase = p.phase := rfl
@[simp] theorem Pad.respond_uaf : (p.respond code data).uaf = p.uaf := rfl
@[simp] theorem Pad.respond_ovf : (p.respond code data).ovf = p.ovf := rfl
@[simp] theorem Pad.respond_ill : (p.respond code data).ill = p.ill := rfl
@[simp] theorem Pad.respond_rsp : (p.respond code data).rsp = some ⟨code, data⟩ := rfl

@[simp] theorem Pad.dropResponse_buf : p.dropResponse.buf = p.buf := rfl
@[simp] theorem Pad.dropResponse_bufLen : p.dropResponse.bufLen = p.bufLen := rfl
@[simp] theorem Pad.dropResponse_bitCnt : p.dropResponse.bitCnt = p.bitCnt := rfl
@[simp] theorem Pad.dropResponse_phase : p.dropResponse.phase = p.phase := rfl
@[simp] theorem Pad.dropResponse_uaf : p.dropResponse.uaf = p.uaf := rfl
@[simp] theorem Pad.dropResponse_ovf : p.dropResponse.ovf = p.ovf := rfl
@[simp] theorem Pad.dropResponse_ill : p.dropResponse.ill = p.ill := rfl
@[simp] theorem Pad.dropResponse_rsp : p.dropResponse.rsp = none := rfl

@[simp] theorem Pad.setPhase_buf : (p.setPhase ph).buf = p.buf := rfl
@[simp] theorem Pad.setPhase_bufLen : (p.setPhase ph).bufLen = p.bufLen := rfl
@[simp] theorem Pad.setPhase_bitCnt : (p.setPhase ph).bitCnt = p.bitCnt := rfl
@[simp] theorem Pad.setPhase_phase : (p.setPhase ph).phase = ph := rfl
@[simp] theorem Pad.setPhase_uaf : (p.setPhase ph).uaf = p.uaf := rfl
@[simp] theorem Pad.setPhase_ovf : (p.setPhase ph).ovf = p.ovf := rfl
@[simp] theorem Pad.setPhase_ill : (p.setPhase ph).ill = p.ill := rfl
@[simp] theorem Pad.setPhase_rsp : (p.setPhase ph).rsp = p.rsp := rfl

@[simp] theorem Pad.clear_buf : p.clear.buf = p.buf := rfl
@[simp] theorem Pad.clear_bufLen : p.clear.bufLen = 0 := rfl
@[simp] theorem Pad.clear_bitCnt : p.clear.bitCnt = 0 := rfl
@[simp] theorem Pad.clear_phase : p.clear.phase = .fresh := rfl
@[simp] theorem Pad.clear_uaf : p.clear.uaf = false := rfl
@[simp] theorem Pad.clear_ovf : p.clear.ovf = false := rfl
@[simp] theorem Pad.clear_ill : p.clear.ill = false := rfl
@[simp] theorem Pad.clear_rsp : p.clear.rsp = p.rsp := rfl

@[simp] theorem Pad.storeByte_buf : (p.storeByte b).buf = p.buf.set p.bufLen.val b p.bufLen.isLt := rfl
@[simp] theorem Pad.storeByte_bufLen : (p.storeByte b).bufLen = p.bufLen := rfl
@[simp] theorem Pad.storeByte_bitCnt : (p.storeByte b).bitCnt = p.bitCnt := rfl
@[simp] theorem Pad.storeByte_phase : (p.storeByte b).phase = p.phase := rfl
@[simp] theorem Pad.storeByte_uaf : (p.storeByte b).uaf = p.uaf := rfl
@[simp] theorem Pad.storeByte_ovf : (p.storeByte b).ovf = p.ovf := rfl
@[simp] theorem Pad.storeByte_ill : (p.storeByte b).ill = p.ill := rfl
@[simp] theorem Pad.storeByte_rsp : (p.storeByte b).rsp = p.rsp := rfl

@[simp] theorem Pad.advance_buf : p.advance.buf = p.buf := rfl
@[simp] theorem Pad.advance_bufLen : p.advance.bufLen = nextBufLen p.bufLen := rfl
@[simp] theorem Pad.advance_bitCnt : p.advance.bitCnt = p.bitCnt := rfl
@[simp] theorem Pad.advance_phase : p.advance.phase = p.phase := rfl
@[simp] theorem Pad.advance_uaf : p.advance.uaf = p.uaf := rfl
@[simp] theorem Pad.advance_ovf : p.advance.ovf = p.ovf := rfl
@[simp] theorem Pad.advance_ill : p.advance.ill = p.ill := rfl
@[simp] theorem Pad.advance_rsp : p.advance.rsp = p.rsp := rfl

@[simp] theorem Pad.countByte_buf : p.countByte.buf = p.buf := by unfold countByte; split <;> rfl
@[simp] theorem Pad.countByte_bufLen : p.countByte.bufLen = p.bufLen := by unfold countByte; split <;> rfl
@[simp] theorem Pad.countByte_bitCnt : p.countByte.bitCnt = p.bitCnt + 8 := by unfold countByte; split <;> rfl
@[simp] theorem Pad.countByte_phase : p.countByte.phase = p.phase := by unfold countByte; split <;> rfl
@[simp] theorem Pad.countByte_uaf : p.countByte.uaf = p.uaf := by unfold countByte; split <;> rfl
@[simp] theorem Pad.countByte_ill : p.countByte.ill = p.ill := by unfold countByte; split <;> rfl
@[simp] theorem Pad.countByte_rsp : p.countByte.rsp = p.rsp := by unfold countByte; split <;> rfl
@[simp] theorem Pad.countByte_ovf : p.countByte.ovf = (p.ovf || countWraps p.bitCnt) := by
  unfold countByte; split <;> simp_all [setFlag]

end PadUpdates

section Raising
variable (p : Pad)

/-- Everything `UseAfterFinalize` does (R252). -/
theorem Pad.raise_useAfterFinalize :
    p.raise .useAfterFinalize = { p with uaf := true, rsp := some ⟨.errUaf, 0⟩ } := rfl

/-- Everything `IllegalCommand` does (R254). -/
theorem Pad.raise_illegalCommand :
    p.raise .illegalCommand = { p with ill := true, rsp := some ⟨.errIllegal, 0⟩ } := rfl

end Raising

end Sys2Proof.Machine
end

