-- ==== Sys2Proof/Laws/Ops.lean ====
section
/-! SUPPORT. What each shared operation can do, once: the advance of `BUFLEN`, a command on PAD, the reset, and the one
inversion lemma of a step. -/

namespace Sys2Proof.Machine

theorem nextBufLen_val (n : Fin 64) : (nextBufLen n).val = (n.val + 1) % 64 := by
  unfold nextBufLen
  split
  · simp only []; omega
  · have := n.isLt
    simp only [Fin.val_zero]
    omega

theorem countWraps_iff (c : BitVec 64) : countWraps c = true ↔ c.toNat = 2 ^ 64 - 8 := by
  unfold countWraps
  rw [beq_iff_eq]
  constructor
  · rintro rfl; decide
  · intro h; exact BitVec.eq_of_toNat_eq (by rw [h]; decide)

/-- A command answers a next state exactly when there is a PAD to run it (R222). -/
theorem State.onPad_eq_next {s : State} {k : Pad → State} {t : State} :
    s.onPad k = .next t ↔ ∃ p, s.pad = some p ∧ t = k p := by
  unfold onPad
  split <;> simp_all [eq_comm]

theorem State.onPad_some {s : State} {p : Pad} (k : Pad → State) (hp : s.pad = some p) :
    s.onPad k = .next (k p) := by simp [onPad, hp]

theorem State.onPad_none {s : State} (k : Pad → State) (hp : s.pad = none) :
    s.onPad k = .refused .noCommandPort := by simp [onPad, hp]

/-- Everything `rst` does in `CFG_FULL` (R290). -/
theorem State.applyReset_full {s : State} {p : Pad} (hp : s.pad = some p) :
    s.applyReset = { h := iv, pad := some Pad.reset, host := s.host } := by
  simp [applyReset, config, hp, resetOf, setHost]

/-- Everything `rst` does in `CFG_CORE` (R290). -/
theorem State.applyReset_core {s : State} (hp : s.pad = none) :
    s.applyReset = { h := iv, pad := none, host := s.host } := by
  simp [applyReset, config, hp, resetOf, setHost]

section Commands
variable {s : State} {p : Pad} (hp : s.pad = some p)
include hp

/-- `INIT` on the PAD `p` (R210). -/
theorem exec_init : exec .init s = .next (s.coreInit.setPad (p.clear.respond .ok 0)) := State.onPad_some _ hp

/-- An accepted `FEED` on the PAD `p` (R211). -/
theorem exec_feed_accepted (b : Byte) (hf : p.phase ≠ .finalized) :
    exec (.feed b) s = .next ((s.feedCore b p).setPad ((p.feedByte b).respond .ok 0)) := by
  simp only [exec, execFeed, State.onPad_some _ hp, if_neg hf]

/-- A refused `FEED` on the PAD `p` (R211, R252). -/
theorem exec_feed_refused (b : Byte) (hf : p.phase = .finalized) :
    exec (.feed b) s = .next (s.raise .useAfterFinalize p) := by
  simp only [exec, execFeed, State.onPad_some _ hp, if_pos hf]

/-- An accepted `FEED0` on the PAD `p` (R212). -/
theorem exec_feed0_accepted (hf : p.phase ≠ .finalized) :
    exec .feed0 s = .next (s.setPad ((p.setPhase .accumulating).respond .ok 0)) := by
  simp only [exec, execFeed0, State.onPad_some _ hp, if_neg hf]

/-- A refused `FEED0` on the PAD `p` (R212, R252). -/
theorem exec_feed0_refused (hf : p.phase = .finalized) :
    exec .feed0 s = .next (s.raise .useAfterFinalize p) := by
  simp only [exec, execFeed0, State.onPad_some _ hp, if_pos hf]

/-- The first `FINAL` on the PAD `p` (R213). -/
theorem exec_final_first (hf : p.phase ≠ .finalized) :
    exec .final s =
      .next ((s.finalCore p).setPad ((p.setPhase .finalized).respond .ok (digestPort (s.finalCore p).h))) := by
  simp only [exec, execFinal, State.onPad_some _ hp, if_neg hf]

/-- A later `FINAL` on the PAD `p` (R213). -/
theorem exec_final_later (hf : p.phase = .finalized) :
    exec .final s = .next (s.setPad ((p.setPhase .finalized).respond .ok (digestPort s.h))) := by
  simp only [exec, execFinal, State.onPad_some _ hp, if_pos hf]

/-- `STATUS` on the PAD `p` (R214). -/
theorem exec_status : exec .status s = .next (s.setPad (p.respond .ok ((statusWord p).setWidth 256))) :=
  State.onPad_some _ hp

end Commands

/-- The compression of an accepted `FEED`, or none (R211). -/
theorem State.feedCore_h (b : Byte) (p : Pad) (s : State) :
    (s.feedCore b p).h = if p.bufLen.val = 63 then compress s.h (p.storeByte b).buf else s.h := by
  by_cases h : p.bufLen.val = 63 <;> simp [feedCore, Pad.fills, h]

@[simp] theorem State.feedCore_pad (b : Byte) (p : Pad) (s : State) : (s.feedCore b p).pad = s.pad := by
  unfold feedCore; split <;> rfl

@[simp] theorem State.feedCore_host (b : Byte) (p : Pad) (s : State) : (s.feedCore b p).host = s.host := by
  unfold feedCore; split <;> rfl

/-- The one or two compressions of the first `FINAL` (R213). -/
theorem State.finalCore_h (p : Pad) (s : State) :
    (s.finalCore p).h = if 56 ≤ p.bufLen.val then compress (compress s.h (p.tailBlock 0)) (p.tailBlock 1)
      else compress s.h (p.tailBlock 0) := by
  unfold finalCore; split <;> rfl

@[simp] theorem State.finalCore_pad (p : Pad) (s : State) : (s.finalCore p).pad = s.pad := by
  unfold finalCore; split <;> rfl

@[simp] theorem State.finalCore_host (p : Pad) (s : State) : (s.finalCore p).host = s.host := by
  unfold finalCore; split <;> rfl

/-- A legal command word decodes to a command. -/
theorem decodeCmd_isCommand {w : CmdWord} {i : Instr} (h : decodeCmd w = .ok i) : i.isCommand = true := by
  unfold decodeCmd at h
  repeat' split at h
  all_goals first
    | (cases h; rfl)
    | cases h

/-- A core operation code decodes to a core operation. -/
theorem decodeCoreOp_not_isCommand {code : CoreCode} {b : BlockPort} {i : Instr}
    (h : decodeCoreOp code b = .ok i) : i.isCommand = false := by
  unfold decodeCoreOp at h
  repeat' split at h
  all_goals first
    | (cases h; rfl)
    | cases h

/-- Everything a step that answers a next state can have done. -/
theorem step_next_cases {s t : State} (hst : step s = .next t) :
    (s.host = [] ∧ t = s.idle) ∨
    (∃ rest, s.host = .rst :: rest ∧ t = (s.setHost rest).applyReset) ∨
    (∃ w rest p i, s.host = .present (.cmd w) :: rest ∧ s.pad = some p ∧ decodeCmd w = .ok i ∧
      exec i (s.setHost rest) = .next t) ∨
    (∃ w rest p e, s.host = .present (.cmd w) :: rest ∧ s.pad = some p ∧ decodeCmd w = .error e ∧
      t = (s.setHost rest).raise .illegalCommand p) ∨
    (∃ code b rest i, s.host = .present (.coreOp code b) :: rest ∧ s.pad = none ∧ decodeCoreOp code b = .ok i ∧
      exec i (s.setHost rest) = .next t) := by
  unfold step acceptNext at hst
  split at hst
  · next hh => exact .inl ⟨hh, by cases hst; rfl⟩
  · next e rest hh =>
    right
    unfold accept at hst
    split at hst
    · exact .inl ⟨rest, hh, by cases hst; rfl⟩
    · next w =>
      unfold acceptCmd at hst
      split at hst
      · cases hst
      · next p hp =>
        split at hst
        · next i hd => exact .inr (.inl ⟨w, rest, p, i, hh, hp, hd, hst⟩)
        · next e hd => exact .inr (.inr (.inl ⟨w, rest, p, e, hh, hp, hd, by cases hst; rfl⟩))
    · next code b =>
      unfold acceptCoreOp at hst
      split at hst
      · cases hst
      · next hp =>
        split at hst
        · next i hd => exact .inr (.inr (.inr ⟨code, b, rest, i, hh, hp, hd, hst⟩))
        · cases hst

end Sys2Proof.Machine
end

