-- ==== Sys2Proof/Laws/PerInstr.lean ====
section
/-! SUPPORT. One lemma per operation about it as syntax: it is encoded on the port its configuration gives the host. -/

namespace Sys2Proof.Laws.PortOf

/-- The encoding of `i` may be presented in a configuration exactly when `i` may be issued there (R100, R222). -/
def Statement (i : Instr) : Prop := ∀ c : Configuration, (encode i).wf c = i.wf c

theorem init : Statement .init := by intro c; cases c <;> rfl
theorem feed (imm8 : Byte) : Statement (.feed imm8) := by intro c; cases c <;> rfl
theorem feed0 : Statement .feed0 := by intro c; cases c <;> rfl
theorem final : Statement .final := by intro c; cases c <;> rfl
theorem status : Statement .status := by intro c; cases c <;> rfl
theorem cIdle : Statement .cIdle := by intro c; cases c <;> rfl
theorem cInit : Statement .cInit := by intro c; cases c <;> rfl
theorem cNext (cBlock : BlockPort) : Statement (.cNext cBlock) := by intro c; cases c <;> rfl

end Sys2Proof.Laws.PortOf
end

