-- ==== Sys2Proof/Laws/Words.lean ====
section
/-! SUPPORT. The lengths of the sequences of the datapath, and the reads that the defaults of `kAt`, `wAt` and
`blockByte` never enter (R47; log entry 14). -/

namespace Sys2Proof.Machine

@[simp] theorem add32_nil : add32 [] = 0 := rfl

@[simp] theorem add32_pair (x y : Word) : add32 [x, y] = x + y := by simp [add32]

theorem kRom_length : kRom.length = 64 := by decide

@[simp] theorem be32Bytes_length (w : Word) : (be32Bytes w).length = 4 := by simp [be32Bytes]

@[simp] theorem be64Bytes_length (v : BitVec 64) : (be64Bytes v).length = 8 := by simp [be64Bytes]

@[simp] theorem schedLoad_length (b : Block) : (schedLoad b).length = 16 := by simp [schedLoad]

@[simp] theorem schedExp_length (w : List Word) (t : Nat) : (schedExp w t).length = w.length + 1 := by simp [schedExp]

theorem blockByte_eq (b : Block) (j : Nat) (h : j < 64) : blockByte b j = b[j] := by
  simp [blockByte, Vector.getD, h]

theorem kAt_eq (t : Nat) (h : t < kRom.length) : kAt t = kRom[t] := by
  simp [kAt, List.getD, h]

theorem wAt_eq (w : List Word) (t : Nat) (h : t < w.length) : wAt w t = w[t] := by
  simp [wAt, List.getD, h]

@[simp] theorem tail_length (buf : Vector Byte 64) (r : Nat) (cnt : BitVec 64) :
    (tail buf r cnt).length = tailLength r := by simp [tail]

end Sys2Proof.Machine
end

