-- ==== Sys2Proof/Tests/Slice0.lean ====
section
/-! SUPPORT. Tests of the model with results from 95_test_vectors.md (cited by its section), and for every obligation
with hypotheses one witness that they can be met. -/

namespace Sys2Proof.Tests

open Sys2Proof Sys2Proof.Machine

/-! ## Small states -/

/-- Buffer contents: the given bytes, then zeros. -/
def bufOf (bs : List Byte) : Vector Byte 64 := Vector.ofFn fun j => bs.getD j.val 0

/-- PAD that has been fed `bs` (fewer than 64 bytes). -/
def fed (bs : List Byte) : Pad :=
  { buf := bufOf bs, bufLen := Fin.ofNat 64 bs.length, bitCnt := BitVec.ofNat 64 (8 * bs.length), phase := .accumulating
    uaf := false, ovf := false, ill := false, rsp := none }

/-- `n` bytes `61`. -/
def sixtyOnes (n : Nat) : List Byte := List.replicate n 0x61

/-- An engine of `CFG_FULL` with `H = IV`. -/
def full (p : Pad) (l : List HostEvent) : State := { h := iv, pad := some p, host := l }

/-- An engine of `CFG_CORE` with `H = IV`. -/
def coreEngine (l : List HostEvent) : State := { h := iv, pad := none, host := l }

/-- The same PAD after `FINAL`. -/
def finalized (p : Pad) : Pad := { p with phase := .finalized }

/-- The state of 95 section 8.3: one byte before the counter wraps. -/
def almostWrapped : Pad :=
  { buf := bufOf [], bufLen := 63, bitCnt := 0xFFFFFFFFFFFFFFF8#64, phase := .accumulating
    uaf := false, ovf := false, ill := false, rsp := none }

/-- `H` after the first block of the program P4 of 95 section 10. -/
def afterFirstBlock : HashState :=
  #v[0x97539B85, 0x1C7EE50B, 0x0B226EC5, 0x4B1F3DBB, 0xE4F116C6, 0xE49B2DD0, 0x31444D1E, 0x25354F3A]

def word (w : CmdWord) : HostEvent := .present (.cmd w)

/-- A view of the next state, if there is one. -/
def view {α : Type} (f : State → α) (o : Host.Outcome State Fault Refusal) : Option α :=
  match o with
  | .next t => some (f t)
  | .fault _ => none
  | .refused _ => none

def refusal (o : Host.Outcome State Fault Refusal) : Option Refusal :=
  match o with
  | .next _ => none
  | .fault _ => none
  | .refused r => some r

/-- `STATUS` as it would read, the response code, and `BITCNT`. -/
def summary (s : State) : Option (BitVec 16 × Option (BitVec 2) × BitVec 64) :=
  s.pad.map fun p => (statusWord p, s.rspCode, p.bitCnt)

/-! ## Well-formedness: the ill-formed terms are refused -/

theorem test_wf_feed_in_core : (Instr.feed 0x61).wf .core = false := by decide
theorem test_wf_cNext_in_full : (Instr.cNext 0).wf .full = false := by rfl
theorem test_wf_reserved_code : (PortWord.coreOp 3#2 0).wf .core = false := by rfl
theorem test_wf_coreOp_in_full : (HostEvent.present (.coreOp 1#2 0)).wf .full = false := by rfl
theorem test_wf_cmd_in_core : (HostEvent.present (.cmd 0x1000#16)).wf .core = false := by rfl
theorem test_wf_good : (Instr.init.wf .full && Instr.cInit.wf .core && HostEvent.rst.wf .core) = true := by decide

/-! ## Decoding: words written bit by bit from R93 and R101, and the table of 95 section 8.2 -/

theorem test_decode_init : decodeCmd 0b0001_0000_0000_0000#16 = .ok .init := by decide
theorem test_decode_feed : decodeCmd 0b0010_0000_0110_0001#16 = .ok (.feed 0b0110_0001#8) := by decide
theorem test_decode_feed0 : decodeCmd 0b0011_0000_0000_0000#16 = .ok .feed0 := by decide
theorem test_decode_final : decodeCmd 0b0100_0000_0000_0000#16 = .ok .final := by decide
theorem test_decode_status : decodeCmd 0b0101_0000_0000_0000#16 = .ok .status := by decide
theorem test_decode_cIdle : decodeTableWord 2 0b00 = some .cIdle := by rfl
theorem test_decode_cInit : decodeTableWord 2 0b01 = some .cInit := by rfl
theorem test_decode_cNext : decodeTableWord 2 0b10 = some (.cNext 0) := by rfl
theorem test_decode_table_feed : decodeTableWord 16 0x20FF = some (.feed 0xFF) := by rfl
theorem test_decode_reserved : decodeTableWord 2 0b11 = none := by rfl
theorem test_decode_illegal :
    ([0x0000, 0xFFFF, 0x1001, 0x1100, 0x2100, 0x2F61, 0x3001, 0x4080, 0x50FF, 0x6000, 0x8000, 0x0061, 0xF000] :
      List CmdWord).all (fun w => decodeCmd w == .error .illegalCommand) = true := by decide
theorem test_rows_disjoint : cmdRows.Pairwise fun r q => (r.pattern ^^^ q.pattern) &&& r.mask &&& q.mask ≠ 0 := by decide

/-! ## Word functions and the padding functions (95 sections 2 and 3) -/

theorem test_add32 : add32 [0x5BE0CD19, 0x3587272B, 0x1F85C98C, 0x428A2F98, 0x61626380] = 0x54DA50E8#32 := by decide
theorem test_rotr32 : rotr32 0x12345678 7 = 0xF02468AC#32 ∧ rotr32 0x12345678 25 = 0x1A2B3C09#32 := by decide
theorem test_sigma0 : sigma0 0xDEADBEEF = 0xABD31B0B#32 := by decide
theorem test_sigma1 : sigma1 0xDEADBEEF = 0x689DBFEC#32 := by decide
theorem test_bigSigma0 : bigSigma0 0xDEADBEEF = 0xB62E25AC#32 := by decide
theorem test_bigSigma1 : bigSigma1 0xDEADBEEF = 0x345E14A3#32 := by decide
theorem test_ch : ch 0xFFFF0000 0x12345678 0x9ABCDEF0 = 0x1234DEF0#32 := by decide
theorem test_maj : maj 0xAAAAAAAA 0xCCCCCCCC 0xF0F0F0F0 = 0xE8E8E8E8#32 := by decide
theorem test_be64Bytes : be64Bytes 448 = [0, 0, 0, 0, 0, 0, 0x01, 0xC0] := by decide
theorem test_zeroFill : [0, 54, 55, 56, 63, 64, 1000].map zeroFill = [55, 1, 0, 63, 56, 55, 15] := by decide
theorem test_tail_one : tail (bufOf [0xFF]) 1 0x8000000000000008#64 =
    [0xFF, 0x80] ++ List.replicate 54 0 ++ [0x80, 0, 0, 0, 0, 0, 0, 0x08] := by decide +kernel
theorem test_tail_two : tail (bufOf (sixtyOnes 56)) 56 0x1C0#64 =
    sixtyOnes 56 ++ [0x80] ++ List.replicate 63 0 ++ [0, 0, 0, 0, 0, 0, 0x01, 0xC0] := by decide +kernel

/-- 95 section 4: words of the schedule of the padded `"abc"`. -/
theorem test_sched : ((sched (blockAt (padMessage [0x61, 0x62, 0x63]) 0)).drop 15).take 4 =
    [0x00000018#32, 0x61626380#32, 0x000F0000#32, 0x7DA86405#32] := by decide +kernel

/-- 95 section 5.1: the registers after round 0. -/
theorem test_round : roundStep (kAt 0) 0x61626380#32 (roundInit iv) =
    ⟨0x5D6AEBCD, 0x6A09E667, 0xBB67AE85, 0x3C6EF372, 0xFA2A4622, 0x510E527F, 0x9B05688C, 0x1F83D9AB⟩ := by decide

/-! ## The operations (95 sections 5, 6 and 8) -/

theorem test_init : view summary (exec .init (full { finalized (fed (sixtyOnes 3)) with uaf := true, ill := true, ovf := true } [])) =
    some (some (0x0000#16, some 0, 0)) := by decide +kernel
theorem test_feed : view summary (exec (.feed 0x63) (full (fed [0x61, 0x62]) [])) =
    some (some (0x0301#16, some 0, 0x18)) := by decide +kernel
theorem test_feed_wraps : view (fun t => (summary t, t.h)) (exec (.feed 0x00) (full almostWrapped [])) =
    some (some (0x0009#16, some 0, 0),
      #v[0xDA5698BE, 0x17B9B469, 0x62335799, 0x779FBECA, 0x8CE5D491, 0xC0D26243, 0xBAFEF9EA, 0x1837A9D8]) := by
  decide +kernel
theorem test_feed0 : view summary (exec .feed0 State.reset) = some (some (0x0001#16, some 0, 0)) := by decide +kernel
theorem test_feed0_refused : view summary (exec .feed0 (full (finalized (fed [0x61])) [])) =
    some (some (0x0106#16, some 1, 8)) := by decide +kernel
theorem test_final : view (fun t => (summary t, t.rspData)) (exec .final (full (fed [0x61, 0x62, 0x63]) [])) =
    some (some (0x0302#16, some 0, 0x18),
      some 0xBA7816BF8F01CFEA414140DE5DAE2223B00361A396177A9CB410FF61F20015AD#256) := by decide +kernel
theorem test_final_two_blocks : view State.rspData (exec .final (full (fed (sixtyOnes 56)) [])) =
    some (some 0xB35439A4AC6F0948B6D6F9E3C6AF0F5F590CE20F1BDE7090EF7970686EC6738A#256) := by decide +kernel
theorem test_status : view State.rspData (exec .status (full { finalized (fed (sixtyOnes 3)) with ill := true } [])) =
    some (some 0x0312#256) := by decide +kernel
theorem test_cIdle : view State.cState (exec .cIdle (coreEngine [])) =
    some (some 0x6A09E667BB67AE853C6EF372A54FF53A510E527F9B05688C1F83D9AB5BE0CD19#256) := by decide +kernel
theorem test_cInit : view State.h (exec .cInit { h := Vector.replicate 8 0, pad := none, host := [] }) = some iv := by
  decide +kernel
/-- 95 section 10, P4: the second block of the program, from the state after the first. -/
theorem test_cNext : view State.cState (exec (.cNext 0x1C0#512) ((coreEngine []).setH afterFirstBlock)) =
    some (some 0xB35439A4AC6F0948B6D6F9E3C6AF0F5F590CE20F1BDE7090EF7970686EC6738A#256) := by decide +kernel

/-- 95 section 8.2: an illegal word in `Finalized` is `ERR_ILLEGAL`, not `ERR_UAF`. -/
theorem test_illegal_word : view summary (step (full (finalized (fed (sixtyOnes 3))) [word 0x2161])) =
    some (some (0x0312#16, some 2, 0x18)) := by decide +kernel
theorem test_reserved_code : refusal (step (coreEngine [.present (.coreOp 3#2 0)])) = some .reservedCoreOp := by decide +kernel
theorem test_withFetchWord : view summary (step (State.reset.withFetchWord 16 0x2061)) =
    some (some (0x0101#16, some 0, 8)) := by decide +kernel
theorem test_withFetchWord_core : view State.cState (step (State.reset.withFetchWord 2 1)) =
    some (some 0x6A09E667BB67AE853C6EF372A54FF53A510E527F9B05688C1F83D9AB5BE0CD19#256) := by decide +kernel
theorem test_asm_comment : parseLine "FEED 0x61   ; 0x2061".toList = some [.feed 0x61] := by decide +kernel
theorem test_asm_hash : parseLine "HASH 616263".toList = some [.init, .feed 0x61, .feed 0x62, .feed 0x63, .final] := by
  decide +kernel

/-! ## Witnesses: the hypotheses of each obligation can be met, for each of its clauses and at its boundaries -/

theorem witness_CommandWordIsItsEncoding :
    decodeCmd 0x2000#16 = .ok (.feed 0) ∧ decodeCmd 0x20FF#16 = .ok (.feed 0xFF) ∧ decodeCmd 0x5000#16 = .ok .status := by
  decide

theorem witness_StepRunsDecodedOperation :
    (∃ (s : State) (p : Pad) (rest : List HostEvent), s.pad = some p ∧ s.host = .present (.cmd 0x2061#16) :: rest ∧
      decode (.cmd 0x2061#16) = .ok (.feed 0x61)) ∧
    (∃ (s : State) (rest : List HostEvent), s.pad = none ∧ s.host = .present (.coreOp 2#2 7) :: rest ∧
      decode (.coreOp 2#2 7) = .ok (.cNext 7)) :=
  ⟨⟨full (fed []) [word 0x2061], _, [], rfl, rfl, rfl⟩, coreEngine [.present (.coreOp 2#2 7)], [], rfl, rfl, rfl⟩

/-- The words on both sides of the legal range of `OP`, and one with `ZERO` not 0. -/
theorem witness_IllegalWordRaisesIllegalCommand :
    ∀ w ∈ [0x0FFF#16, 0x6000#16, 0xFFFF#16, 0x2100#16], ∃ (s : State) (p : Pad) (rest : List HostEvent),
      s.pad = some p ∧ s.host = .present (.cmd w) :: rest ∧ decodeCmd w = .error .illegalCommand := by
  intro w hw
  have hd : decodeCmd w = .error .illegalCommand := by
    simp only [List.mem_cons, List.not_mem_nil, or_false] at hw
    rcases hw with rfl | rfl | rfl | rfl <;> decide
  exact ⟨full (finalized (fed [])) [word w], finalized (fed []), [], rfl, rfl, hd⟩

theorem witness_ReservedCoreCodeIsRefused :
    ∃ (s : State) (b : BlockPort) (rest : List HostEvent), s.pad = none ∧ s.host = .present (.coreOp 0b11#2 b) :: rest :=
  ⟨coreEngine [.present (.coreOp 3#2 0)], 0, [], rfl, rfl⟩

theorem witness_MissingPortIsRefused :
    ((coreEngine []).pad = none ∧ Instr.final.isCommand = true) ∧
    (∃ s : State, s.pad = none ∧ s.host = [.present (.cmd 0x0000#16)]) ∧
    (∃ (s : State) (p : Pad), s.pad = some p ∧ s.host = [.present (.coreOp 3#2 0)]) :=
  ⟨⟨rfl, rfl⟩, ⟨coreEngine [word 0], rfl, rfl⟩, full (fed []) [.present (.coreOp 3#2 0)], _, rfl, rfl⟩

theorem witness_EveryLegalEventCompletes :
    (∀ e ∈ (coreEngine []).host.head?, e.wf (coreEngine []).config = true) ∧
    (∀ e ∈ (coreEngine [.present (.coreOp 2#2 0)]).host.head?, e.wf (coreEngine [.present (.coreOp 2#2 0)]).config = true) ∧
    (∀ e ∈ (full (fed []) [word 0xFFFF]).host.head?, e.wf (full (fed []) [word 0xFFFF]).config = true) := by
  refine ⟨by simp [coreEngine], ?_, ?_⟩
  · intro e he; cases he; rfl
  · intro e he; cases he; rfl

theorem witness_OneResponsePerCommand :
    (∃ (s : State) (p : Pad) (rest : List HostEvent), s.pad = some p ∧ s.host = .present (.cmd 0x4000#16) :: rest) ∧
    (∃ s t : State, s.host = [] ∧ step s = .next t) ∧
    (∃ (s t : State) (rest : List HostEvent), s.host = .rst :: rest ∧ step s = .next t) :=
  ⟨⟨full (fed []) [word 0x4000], _, [], rfl, rfl⟩, ⟨State.reset, _, rfl, rfl⟩, full (fed []) [.rst], _, [], rfl, rfl⟩

/-- `FINAL`, `STATUS`, another command, and an illegal word. -/
theorem witness_ResponseDataByCommand :
    (∃ (s t : State) (p : Pad) (rest : List HostEvent), s.pad = some p ∧ s.host = .present (.cmd 0x4000#16) :: rest ∧
      step s = .next t ∧ decodeCmd 0x4000#16 = .ok .final) ∧
    (∃ (s t : State) (p : Pad) (rest : List HostEvent), s.pad = some p ∧ s.host = .present (.cmd 0x5000#16) :: rest ∧
      step s = .next t ∧ decodeCmd 0x5000#16 = .ok .status) ∧
    (∃ (s t : State) (p : Pad) (rest : List HostEvent), s.pad = some p ∧ s.host = .present (.cmd 0x2061#16) :: rest ∧
      step s = .next t ∧ decodeCmd 0x2061#16 ≠ .ok .final ∧ decodeCmd 0x2061#16 ≠ .ok .status) ∧
    (∃ (s t : State) (p : Pad) (rest : List HostEvent) (r : Response),
      s.pad = some p ∧ s.host = .present (.cmd 0x2100#16) :: rest ∧
      step s = .next t ∧ t.response = some r ∧ r.code ≠ .ok) ∧
    (∃ (s t : State) (p : Pad) (rest : List HostEvent), s.pad = some p ∧ s.host = .present (.cmd 0x2000#16) :: rest ∧
      step s = .next t ∧ decodeCmd 0x2000#16 = .ok (.feed 0) ∧ p.phase ≠ .finalized ∧
      p.bitCnt = 0xFFFFFFFFFFFFFFF8#64) :=
  ⟨⟨full (fed []) [word 0x4000], _, _, [], rfl, rfl, rfl, by decide⟩,
    ⟨full (fed []) [word 0x5000], _, _, [], rfl, rfl, rfl, by decide⟩,
    ⟨full (fed []) [word 0x2061], _, _, [], rfl, rfl, rfl, by decide, by decide⟩,
    ⟨full (fed []) [word 0x2100], _, _, [], _, rfl, rfl, rfl, rfl, by decide⟩,
    full almostWrapped [word 0x2000], _, _, [], rfl, rfl, rfl, by decide, by decide +kernel, rfl⟩

theorem witness_StepKeepsConfiguration :
    (∃ t, step (full (fed []) [word 0x4000]) = .next t) ∧ ∃ t, step (coreEngine [.present (.coreOp 1#2 0)]) = .next t :=
  ⟨⟨_, rfl⟩, _, rfl⟩

theorem witness_RstGivesResetState :
    (∃ (s : State) (rest : List HostEvent), s.host = .rst :: rest ∧ s.pad = none) ∧
    (∃ (s : State) (rest : List HostEvent), s.host = .rst :: rest ∧ s.pad ≠ none) :=
  ⟨⟨coreEngine [.rst], [], rfl, rfl⟩, full (finalized (fed (sixtyOnes 3))) [.rst, word 0x1000], [word 0x1000], rfl, by decide +kernel⟩

/-- A PAD in each phase, for the obligations that hold in every phase. -/
theorem witness_InitResult :
    ∀ ph : Phase, ∃ (s : State) (p : Pad), s.pad = some p ∧ p.phase = ph :=
  fun ph => ⟨full { fed (sixtyOnes 3) with phase := ph } [], _, rfl, rfl⟩

theorem witness_InitGivesResetState :
    (∃ (s : State) (p : Pad), s.pad = some p ∧ p ≠ Pad.reset) ∧ (∃ s : State, s.pad = none) :=
  ⟨⟨full (finalized (fed (sixtyOnes 3))) [], _, rfl, by decide +kernel⟩, coreEngine [], rfl⟩

theorem witness_PortsAfterReset :
    (∃ (s : State) (rest : List HostEvent), s.host = .rst :: rest ∧ s.config = .core) ∧
    (∃ (s : State) (rest : List HostEvent), s.host = .rst :: rest ∧ s.config = .full) :=
  ⟨⟨coreEngine [.rst], [], rfl, rfl⟩, full (fed (sixtyOnes 3)) [.rst], [], rfl, rfl⟩

theorem feed_of_last_byte : ∃ (s : State) (p : Pad) (b : Byte) (block : Block),
    s.pad = some p ∧ p.phase ≠ .finalized ∧ p.bufLen.val = 63 ∧ block.toList = p.pending ++ [b] :=
  ⟨full (fed (sixtyOnes 63)) [], fed (sixtyOnes 63), 0x62, bufOf (sixtyOnes 63 ++ [0x62]), rfl, by decide +kernel,
    by decide +kernel, by decide +kernel⟩

/-- The refused `FEED`; the first byte, the last one that does not fill the buffer, and the one that does. -/
theorem witness_FeedResult :
    (∃ (s : State) (p : Pad), s.pad = some p ∧ p.phase = .finalized) ∧
    (∃ (s : State) (p : Pad), s.pad = some p ∧ p.phase ≠ .finalized ∧ p.bufLen.val < 63 ∧ p.bufLen.val = 0) ∧
    (∃ (s : State) (p : Pad), s.pad = some p ∧ p.phase ≠ .finalized ∧ p.bufLen.val < 63 ∧ p.bufLen.val = 62) ∧
    (∃ (s : State) (p : Pad) (b : Byte) (block : Block), s.pad = some p ∧ p.phase ≠ .finalized ∧ p.bufLen.val = 63 ∧
      block.toList = p.pending ++ [b]) :=
  ⟨⟨full (finalized (fed (sixtyOnes 63))) [], _, rfl, rfl⟩,
    ⟨State.reset, Pad.reset, rfl, by decide, by decide, by decide⟩,
    ⟨full (fed (sixtyOnes 62)) [], fed (sixtyOnes 62), rfl, by decide +kernel, by decide +kernel, by decide +kernel⟩,
    feed_of_last_byte⟩

theorem witness_DrainIsOneCoreNext :
    ∃ (s : State) (p : Pad) (b : Byte) (block : Block), s.pad = some p ∧ p.phase ≠ .finalized ∧ p.bufLen.val = 63 ∧
      block.toList = p.pending ++ [b] :=
  feed_of_last_byte

theorem witness_FeedAfterFinalRaises :
    (∃ (s : State) (p : Pad), s.pad = some p ∧ p.phase = .finalized) ∧
    (∃ (s t : State) (p q : Pad), s.pad = some p ∧ Instr.feed0.isCommand = true ∧ exec .feed0 s = .next t ∧
      t.pad = some q ∧ q.rsp = some ⟨.errUaf, 0⟩) :=
  ⟨⟨full (finalized (fed (sixtyOnes 63))) [], _, rfl, rfl⟩,
    full (finalized (fed (sixtyOnes 3))) [], _, _, _, rfl, rfl, rfl, rfl, rfl⟩

theorem witness_LengthOverflowWraps :
    ∃ (s : State) (p : Pad) (b : Byte) (block : Block), s.Inv ∧ s.pad = some p ∧ p.phase ≠ .finalized ∧
      p.bitCnt.toNat = 2 ^ 64 - 8 ∧ block.toList = p.pending ++ [b] :=
  ⟨full almostWrapped [], almostWrapped, 0, bufOf [], by intro p hp; cases hp; decide +kernel, rfl, by decide +kernel,
    by decide +kernel, by decide +kernel⟩

theorem witness_FeedEmptyChunkResult :
    (∃ (s : State) (p : Pad), s.pad = some p ∧ p.phase = .finalized) ∧
    (∃ (s : State) (p : Pad), s.pad = some p ∧ p.phase ≠ .finalized) :=
  ⟨⟨full (finalized (fed [])) [], _, rfl, rfl⟩, State.reset, Pad.reset, rfl, by decide⟩

/-- No pending byte, and the most that one block can take. -/
theorem final_one_block :
    ∀ n ∈ [0, 55], ∃ (s : State) (p : Pad) (block : Block), s.pad = some p ∧ p.phase ≠ .finalized ∧ p.bufLen.val ≤ 55 ∧
      p.bufLen.val = n ∧
      block.toList = p.pending ++ [0x80] ++ List.replicate (zeroFill p.bufLen.val) 0 ++ be64Bytes p.bitCnt := by
  intro n hn
  refine ⟨full (fed (sixtyOnes n)) [], fed (sixtyOnes n), (fed (sixtyOnes n)).tailBlock 0, rfl, ?_⟩
  revert n
  decide +kernel

/-- The fewest pending bytes that need two blocks, and the most there can be. -/
theorem final_two_blocks :
    ∀ n ∈ [56, 63], ∃ (s : State) (p : Pad) (block₁ block₂ : Block),
      s.pad = some p ∧ p.phase ≠ .finalized ∧ 56 ≤ p.bufLen.val ∧ p.bufLen.val = n ∧
      block₁.toList ++ block₂.toList =
        p.pending ++ [0x80] ++ List.replicate (zeroFill p.bufLen.val) 0 ++ be64Bytes p.bitCnt := by
  intro n hn
  refine ⟨full (fed (sixtyOnes n)) [], fed (sixtyOnes n), (fed (sixtyOnes n)).tailBlock 0,
    (fed (sixtyOnes n)).tailBlock 1, rfl, ?_⟩
  revert n
  decide +kernel

theorem witness_FinalResult :
    (∀ n ∈ [0, 55], ∃ (s : State) (p : Pad) (block : Block), s.pad = some p ∧ p.phase ≠ .finalized ∧
      p.bufLen.val ≤ 55 ∧ p.bufLen.val = n ∧
      block.toList = p.pending ++ [0x80] ++ List.replicate (zeroFill p.bufLen.val) 0 ++ be64Bytes p.bitCnt) ∧
    (∀ n ∈ [56, 63], ∃ (s : State) (p : Pad) (block₁ block₂ : Block),
      s.pad = some p ∧ p.phase ≠ .finalized ∧ 56 ≤ p.bufLen.val ∧ p.bufLen.val = n ∧
      block₁.toList ++ block₂.toList =
        p.pending ++ [0x80] ++ List.replicate (zeroFill p.bufLen.val) 0 ++ be64Bytes p.bitCnt) ∧
    (∃ (s : State) (p : Pad), s.pad = some p ∧ p.phase = .finalized) :=
  ⟨final_one_block, final_two_blocks, full (finalized (fed [])) [], _, rfl, rfl⟩

theorem witness_FinalAlwaysCompletes :
    ∀ ph : Phase, ∃ (s : State) (p : Pad), s.pad = some p ∧ p.phase = ph :=
  witness_InitResult

theorem witness_IdempotentOperations :
    ∀ i ∈ [Instr.init, .feed0, .final, .status, .cInit], ∃ t, exec i (full (fed (sixtyOnes 3)) []) = .next t := by
  intro i hi
  simp only [List.mem_cons, List.not_mem_nil, or_false] at hi
  rcases hi with rfl | rfl | rfl | rfl | rfl <;> exact ⟨_, rfl⟩

theorem witness_StatusResult : ∃ (s : State) (p : Pad), s.pad = some p ∧ statusWord p = 0x0101#16 :=
  ⟨full (fed [0x61]) [], _, rfl, by decide +kernel⟩

theorem witness_StatusWordFormula : ∃ (s : State) (p : Pad), s.pad = some p ∧ p.phase = .finalized :=
  ⟨full (finalized (fed [0x61])) [], _, rfl, rfl⟩

theorem witness_CoreNextResult :
    ∃ (pins : BlockPort) (block : Block), ∀ (j : Nat) (h : j < 64), block[j] = pins.extractLsb' (504 - 8 * j) 8 :=
  ⟨0x1C0#512, blockOfPort 0x1C0#512, fun j h => by simp [blockOfPort]⟩

theorem witness_StepKeepsInvariant :
    (∃ s t : State, s.Inv ∧ step s = .next t ∧ s.host = [word 0x2061]) ∧
    (∃ s t : State, s.Inv ∧ step s = .next t ∧ s.pad = none) := by
  refine ⟨⟨full (fed (sixtyOnes 62)) [word 0x2061], _, ?_, rfl, rfl⟩, coreEngine [.present (.coreOp 1#2 0)], _, ?_, rfl, rfl⟩
  · intro p hp; cases hp; decide +kernel
  · intro p hp; cases hp

/-- Every phase, with a legal command and with an illegal word. -/
theorem witness_LifecycleTable :
    (∀ ph : Phase, ∀ w ∈ [0x1000#16, 0x20FF#16, 0x3000#16, 0x4000#16, 0x5000#16, 0x6000#16],
      ∃ (s : State) (p : Pad) (rest : List HostEvent),
        s.pad = some p ∧ p.phase = ph ∧ s.host = .present (.cmd w) :: rest) ∧
    (∀ ph : Phase, ∃ (s : State) (p : Pad) (rest : List HostEvent),
      s.pad = some p ∧ p.phase = ph ∧ s.host = .rst :: rest) :=
  ⟨fun ph w _ => ⟨full { fed (sixtyOnes 63) with phase := ph } [word w], _, [], rfl, rfl, rfl⟩,
    fun ph => ⟨full { fed (sixtyOnes 63) with phase := ph } [.rst], _, [], rfl, rfl, rfl⟩⟩

/-- A change of `H` by `C_INIT`, and one by a compression inside a `FEED`. -/
theorem witness_OnlyListedWritersChangeH :
    (∃ s t : State, step s = .next t ∧ t.h ≠ s.h ∧ s.host = [.present (.coreOp 0b01#2 0)]) ∧
    (∃ s t : State, step s = .next t ∧ t.h ≠ s.h ∧ s.host = [word 0x2000]) :=
  ⟨⟨{ h := Vector.replicate 8 0, pad := none, host := [.present (.coreOp 0b01#2 0)] }, _, rfl, by decide +kernel, rfl⟩,
    full almostWrapped [word 0x2000], _, rfl, by decide +kernel, rfl⟩

theorem witness_FlagsAreStickyAndInert :
    (∃ (s t : State) (p : Pad), s.pad = some p ∧ step s = .next t ∧ s.host.head? ≠ some .rst ∧
      s.host.head? ≠ some (.present (encode .init)) ∧ p.uaf = true ∧ p.ovf = true ∧ p.ill = true) ∧
    (∃ (s t : State) (p q : Pad) (i : Instr), s.pad = some p ∧ i ≠ .status ∧ exec i s = .next t ∧ t.pad = some q) :=
  ⟨⟨full { finalized (fed (sixtyOnes 3)) with uaf := true, ovf := true, ill := true } [word 0x5000], _, _, rfl, rfl, by decide,
      by decide, rfl, rfl, rfl⟩,
    full (fed (sixtyOnes 3)) [], _, _, _, .feed 0x61, rfl, by decide, rfl, rfl⟩

/-- `FINAL` again, and a refused `FEED`. -/
theorem witness_FinalizedIsTerminal :
    ∀ w ∈ [0x4000#16, 0x2061#16], ∃ (s t : State) (p : Pad), s.pad = some p ∧ p.phase = .finalized ∧ step s = .next t ∧
      s.host.head? ≠ some .rst ∧ s.host.head? ≠ some (.present (encode .init)) ∧
      s.host.head? = some (.present (.cmd w)) := by
  intro w hw
  simp only [List.mem_cons, List.not_mem_nil, or_false] at hw
  rcases hw with rfl | rfl
  · exact ⟨full (finalized (fed (sixtyOnes 3))) [word 0x4000], _, _, rfl, rfl, rfl, by decide, by decide, rfl⟩
  · exact ⟨full (finalized (fed (sixtyOnes 3))) [word 0x2061], _, _, rfl, rfl, rfl, by decide, by decide, rfl⟩

/-- Two engines that really differ, in a cell at `BUFLEN`. -/
theorem witness_StaleBufferCellsAreNeverRead :
    ∃ s t s' : State, s.SameLive t ∧ step s = .next s' ∧ s ≠ t := by
  refine ⟨full (fed [0x61]) [word 0x4000], full { fed [0x61] with buf := bufOf [0x61, 0xFF] } [word 0x4000], _,
    ⟨rfl, rfl, ?_, ?_⟩, rfl, ?_⟩
  · decide +kernel
  · decide +kernel
  · decide +kernel

/-- What `n` fed bytes `61` leave, for fewer than 64 of them. -/
theorem accumulates_as : ∀ n ∈ [1, 55, 56, 63], Accumulates (sixtyOnes n) (full (fed (sixtyOnes n)) [word 0x2061]) := by
  intro n hn
  refine ⟨fed (sixtyOnes n), rfl, by simp [fed], by simp [fed], ?_, ?_, ?_, ?_⟩
  · have : blocksOf (sixtyOnes n) = [] := by revert n; decide +kernel
    simp only [foldBlocks, this]
    rfl
  all_goals revert n; decide +kernel

theorem accumulates_nil (l : List HostEvent) : Accumulates [] (full Pad.reset l) :=
  ⟨Pad.reset, rfl, by decide, fun _ => rfl, rfl, rfl, rfl, rfl⟩

theorem witness_AccumulationInvariant :
    (∃ (s : State) (p : Pad), s.pad = some p ∧ s.host.head? = some .rst) ∧
    (∃ (s : State) (p : Pad), s.pad = some p ∧ s.host.head? = some (.present (encode .init))) ∧
    (∃ (s : State) (m : List Byte) (b : Byte),
      Accumulates m s ∧ m.length = 63 ∧ s.host.head? = some (.present (encode (.feed b)))) ∧
    (∀ w ∈ [0x3000#16, 0x5000#16, 0x0000#16], ∃ (s : State) (m : List Byte),
      Accumulates m s ∧ s.host.head? = some (.present (.cmd w)) ∧
      (decodeCmd w = .ok .feed0 ∨ decodeCmd w = .ok .status ∨ decodeCmd w = .error .illegalCommand)) ∧
    (∃ (s : State) (m : List Byte), Accumulates m s ∧ s.host = []) := by
  refine ⟨⟨full (fed []) [.rst], _, rfl, rfl⟩, ⟨full (fed []) [word 0x1000], _, rfl, by decide⟩,
    ⟨_, sixtyOnes 63, 0x61, accumulates_as 63 (by decide), by decide, by decide⟩, ?_, _, [], accumulates_nil [], rfl⟩
  intro w hw
  have hd : decodeCmd w = .ok .feed0 ∨ decodeCmd w = .ok .status ∨ decodeCmd w = .error .illegalCommand := by
    simp only [List.mem_cons, List.not_mem_nil, or_false] at hw
    rcases hw with rfl | rfl | rfl <;> decide
  exact ⟨full Pad.reset [word w], [], accumulates_nil [word w], rfl, hd⟩

/-- The lengths on both sides of the padding boundary. -/
theorem witness_FinalReturnsDigestOfMessage :
    ∀ n ∈ [1, 55, 56, 63], ∃ (s : State) (m : List Byte), Accumulates m s ∧ m.length = n :=
  fun n hn => ⟨_, sixtyOnes n, accumulates_as n hn, by simp [sixtyOnes]⟩

theorem witness_HashReturnsDigest :
    ∃ (m : List Byte) (s : State) (p : Pad) (rest : List HostEvent),
      s.pad = some p ∧ p.phase = .finalized ∧ s.host = issue (hashOps m) ++ rest :=
  ⟨[0x61, 0x62, 0x63], full (finalized (fed (sixtyOnes 3))) (issue (hashOps [0x61, 0x62, 0x63]) ++ [word 0x5000]), _,
    [word 0x5000], rfl, rfl, rfl⟩

theorem witness_CoreHashReturnsDigest :
    ∃ (m : List Byte) (s : State) (rest : List HostEvent), s.pad = none ∧ s.host = issue (coreHashOps m) ++ rest :=
  ⟨[0x61], coreEngine (issue (coreHashOps [0x61]) ++ []), [], rfl, rfl⟩

/-- The empty chunk, and a chunk that fills the buffer and wraps the counter. -/
theorem witness_ChunkLaw :
    (∃ (s : State) (p : Pad) (rest : List HostEvent),
      s.Inv ∧ s.pad = some p ∧ p.phase ≠ .finalized ∧ s.host = issue (feedx []) ++ rest) ∧
    (∃ (s : State) (p : Pad) (rest : List HostEvent),
      s.Inv ∧ s.pad = some p ∧ p.phase ≠ .finalized ∧ s.host = issue (feedx [0, 0x61]) ++ rest) := by
  refine ⟨⟨full Pad.reset (issue (feedx []) ++ []), _, [], ?_, rfl, by decide, rfl⟩,
    full almostWrapped (issue (feedx [0, 0x61]) ++ []), _, [], ?_, rfl, by decide +kernel, rfl⟩
  · intro p hp; cases hp; decide +kernel
  · intro p hp; cases hp; decide +kernel

theorem witness_ChunkAfterFinalOnlySetsFlag :
    ∀ c ∈ [([] : List Byte), [0x61, 0x62]], ∃ (s : State) (p : Pad) (rest : List HostEvent),
      s.pad = some p ∧ p.phase = .finalized ∧ s.host = issue (feedx c) ++ rest :=
  fun c _ => ⟨full (finalized (fed (sixtyOnes 3))) (issue (feedx c) ++ []), _, [], rfl, rfl, rfl⟩

theorem witness_ZeroFillIsLeast : (55 + 1 + 0) % 64 = 56 ∧ (56 + 1 + 63) % 64 = 56 ∧ (0 + 1 + 119) % 64 = 56 := by decide

theorem witness_TailIsConcatenation : ∀ r ∈ [0, 55, 56, 63], r ≤ 63 := by decide

theorem witness_PaddingSplits :
    ∀ n ∈ [0, 55, 63, 64, 65], ∃ (m : List Byte) (buf : Vector Byte 64),
      m.length = n ∧ buf.toList.take (m.length % 64) = m.drop (64 * (m.length / 64)) := by
  intro n hn
  refine ⟨sixtyOnes n, bufOf (sixtyOnes (n % 64)), ?_⟩
  revert n
  decide +kernel

theorem witness_ScheduleRecurrence : (0 < 16 ∧ 15 < 16) ∧ (16 ≤ 16 ∧ 16 ≤ 63) ∧ (16 ≤ 63 ∧ 63 ≤ 63) := by decide

theorem witness_RoundEquations : (0 ≤ 63) ∧ (63 ≤ 63) := by decide

theorem witness_AddIsSumModulo : [1#32, 2#32, 3#32].Perm [3#32, 1#32, 2#32] := by decide

theorem witness_RotationBits : (1 ≤ 1 ∧ 1 ≤ 31 ∧ 0 < 32) ∧ (1 ≤ 31 ∧ 31 ≤ 31 ∧ 31 < 32) := by decide

theorem witness_SigmaBits : 0 < 32 ∧ 31 < 32 := by decide

theorem witness_PortPlacement :
    (0 < 8 ∧ 7 < 8) ∧ (0 < 32 ∧ 31 < 32) ∧ (0 < 4 ∧ 3 < 4) ∧ (0 < 64 ∧ 63 < 64) ∧ (0 < 16 ∧ 15 < 16) := by decide

end Sys2Proof.Tests
end

section
/-! SUPPORT. The configuration is the presence of the PAD unit (R7): what each update of the state does to it, and that
no operation and no step changes it. -/

namespace Sys2Proof.Machine

theorem State.config_of_pad_some {s : State} {p : Pad} (hp : s.pad = some p) : s.config = .full := by
  simp [config, hp]

theorem State.config_of_pad_none {s : State} (hp : s.pad = none) : s.config = .core := by
  simp [config, hp]

section ConfigUpdates
variable (p : Pad) (l : List HostEvent) (c : Condition) (b : Block) (s : State)

@[simp] theorem State.setPad_config : (s.setPad p).config = .full := rfl
@[simp] theorem State.raise_config : (s.raise c p).config = .full := rfl
@[simp] theorem State.setHost_config : (s.setHost l).config = s.config := rfl
@[simp] theorem State.coreInit_config : s.coreInit.config = s.config := rfl
@[simp] theorem State.coreNext_config : (s.coreNext b).config = s.config := rfl

@[simp] theorem State.resetOf_config (cfg : Configuration) : (State.resetOf cfg).config = cfg := by
  cases cfg <;> rfl

@[simp] theorem State.applyReset_config : s.applyReset.config = s.config := by
  simp [applyReset]

@[simp] theorem State.idle_config : s.idle.config = s.config := by
  cases hp : s.pad with
  | none => rw [State.config_of_pad_none hp, State.config_of_pad_none (by simp [hp])]
  | some p => rw [State.config_of_pad_some hp, State.config_of_pad_some (p := p.dropResponse) (by simp [hp])]

end ConfigUpdates

/-- A command runs only where there is a PAD, so it keeps the configuration when every state it can answer has one. -/
theorem State.onPad_keeps_config {s t : State} {k : Pad → State} (hk : ∀ p, (k p).config = .full)
    (h : s.onPad k = .next t) : t.config = s.config := by
  obtain ⟨p, hp, rfl⟩ := State.onPad_eq_next.mp h
  rw [hk, State.config_of_pad_some hp]

theorem execFeed_keeps_config {imm8 : Byte} {s t : State} (h : execFeed imm8 s = .next t) : t.config = s.config := by
  refine State.onPad_keeps_config (fun p => ?_) h
  split
  · exact State.raise_config ..
  · exact State.setPad_config ..

theorem execFeed0_keeps_config {s t : State} (h : execFeed0 s = .next t) : t.config = s.config := by
  refine State.onPad_keeps_config (fun p => ?_) h
  split
  · exact State.raise_config ..
  · exact State.setPad_config ..

/-- No operation changes the configuration: a command leaves a PAD where it found one, and a core operation writes `H`
alone. -/
theorem exec_keeps_config {i : Instr} {s t : State} (h : exec i s = .next t) : t.config = s.config := by
  cases i with
  | init => exact State.onPad_keeps_config (fun _ => State.setPad_config ..) h
  | feed imm8 => exact execFeed_keeps_config h
  | feed0 => exact execFeed0_keeps_config h
  | final => exact State.onPad_keeps_config (fun _ => State.setPad_config ..) h
  | status => exact State.onPad_keeps_config (fun _ => State.setPad_config ..) h
  | cIdle => cases h; rfl
  | cInit => cases h; exact State.coreInit_config ..
  | cNext cBlock => cases h; exact State.coreNext_config ..

/-- Settles O15, by the cases of a step: waiting, `rst`, an operation, or an illegal word, which is accepted only where
there is a PAD. -/
theorem stepKeepsConfiguration : Obligations.StepKeepsConfiguration := by
  unfold Obligations.StepKeepsConfiguration
  intro s t hst
  obtain ⟨-, rfl⟩ | ⟨rest, -, rfl⟩ | ⟨_, rest, _, _, -, -, -, hex⟩ | ⟨_, rest, p, _, -, hp, -, rfl⟩ |
    ⟨_, _, rest, _, -, -, -, hex⟩ := step_next_cases hst
  · exact s.idle_config
  · rw [State.applyReset_config, State.setHost_config]
  · rw [exec_keeps_config hex, State.setHost_config]
  · rw [State.raise_config, State.config_of_pad_some hp]
  · rw [exec_keeps_config hex, State.setHost_config]

end Sys2Proof.Machine
end

section
/-! SUPPORT. What one command does to an engine with a PAD, once, as an inversion lemma; and what a step answers for
each kind of event. -/

namespace Sys2Proof.Machine

/-- What the command `i` makes of the engine `s` with the PAD `p`, one constructor for each row and side condition of
R210 to R214 and R252. -/
inductive CommandEffect (s : State) (p : Pad) : Instr → State → Prop
  | init : CommandEffect s p .init (s.coreInit.setPad (p.clear.respond .ok 0))
  | feed (b : Byte) (hf : p.phase ≠ .finalized) :
      CommandEffect s p (.feed b) ((s.feedCore b p).setPad ((p.feedByte b).respond .ok 0))
  | feedRefused (b : Byte) (hf : p.phase = .finalized) :
      CommandEffect s p (.feed b) (s.raise .useAfterFinalize p)
  | feed0 (hf : p.phase ≠ .finalized) :
      CommandEffect s p .feed0 (s.setPad ((p.setPhase .accumulating).respond .ok 0))
  | feed0Refused (hf : p.phase = .finalized) : CommandEffect s p .feed0 (s.raise .useAfterFinalize p)
  | finalFirst (hf : p.phase ≠ .finalized) :
      CommandEffect s p .final
        ((s.finalCore p).setPad ((p.setPhase .finalized).respond .ok (digestPort (s.finalCore p).h)))
  | finalLater (hf : p.phase = .finalized) :
      CommandEffect s p .final (s.setPad ((p.setPhase .finalized).respond .ok (digestPort s.h)))
  | status : CommandEffect s p .status (s.setPad (p.respond .ok ((statusWord p).setWidth 256)))

/-- Every effect of a command is what `exec` answers. -/
theorem CommandEffect.exec_eq {s t : State} {p : Pad} {i : Instr} (hp : s.pad = some p) (he : CommandEffect s p i t) :
    exec i s = .next t := by
  cases he with
  | init => exact exec_init hp
  | feed b hf => exact exec_feed_accepted hp b hf
  | feedRefused b hf => exact exec_feed_refused hp b hf
  | feed0 hf => exact exec_feed0_accepted hp hf
  | feed0Refused hf => exact exec_feed0_refused hp hf
  | finalFirst hf => exact exec_final_first hp hf
  | finalLater hf => exact exec_final_later hp hf
  | status => exact exec_status hp

/-- A command on a PAD always has an effect (R268). -/
theorem CommandEffect.exists_of_isCommand (s : State) (p : Pad) {i : Instr} (hi : i.isCommand = true) :
    ∃ t, CommandEffect s p i t := by
  cases i with
  | init => exact ⟨_, .init⟩
  | feed b =>
    by_cases hf : p.phase = .finalized
    · exact ⟨_, .feedRefused b hf⟩
    · exact ⟨_, .feed b hf⟩
  | feed0 =>
    by_cases hf : p.phase = .finalized
    · exact ⟨_, .feed0Refused hf⟩
    · exact ⟨_, .feed0 hf⟩
  | final =>
    by_cases hf : p.phase = .finalized
    · exact ⟨_, .finalLater hf⟩
    · exact ⟨_, .finalFirst hf⟩
  | status => exact ⟨_, .status⟩
  | cIdle | cInit | cNext => cases hi

/-- What a command on a PAD answers is one of its effects. -/
theorem commandEffect_of_exec {s t : State} {p : Pad} {i : Instr} (hp : s.pad = some p) (hi : i.isCommand = true)
    (hex : exec i s = .next t) : CommandEffect s p i t := by
  obtain ⟨u, hu⟩ := CommandEffect.exists_of_isCommand s p hi
  have hut : u = t := by simpa [hu.exec_eq hp] using hex
  exact hut ▸ hu

/-- A core operation leaves the PAD alone. -/
theorem exec_pad_of_not_isCommand {s t : State} {i : Instr} (hi : i.isCommand = false) (hex : exec i s = .next t) :
    t.pad = s.pad := by
  cases i with
  | init | feed | feed0 | final | status => cases hi
  | cIdle | cInit | cNext => cases hex; rfl

theorem State.applyReset_h (s : State) : s.applyReset.h = iv := by
  cases hp : s.pad with
  | none => rw [State.applyReset_core hp]
  | some p => rw [State.applyReset_full hp]

section StepEquations
variable {s : State} {rest : List HostEvent}

/-- A step with nothing presented (R267, R97). -/
theorem step_idle (hh : s.host = []) : step s = .next s.idle := by simp only [step, acceptNext, hh]

/-- A step on `rst` (R290). -/
theorem step_rst (hh : s.host = .rst :: rest) : step s = .next (s.setHost rest).applyReset := by
  simp only [step, acceptNext, hh, accept]

variable {p : Pad} {w : CmdWord} (hp : s.pad = some p) (hh : s.host = .present (.cmd w) :: rest)
include hp hh

/-- A step on a legal command word (R93). -/
theorem step_command {i : Instr} (hd : decodeCmd w = .ok i) : step s = exec i (s.setHost rest) := by
  simp only [step, acceptNext, hh, accept, acceptCmd, State.setHost_pad, hp, hd]

/-- A step on an illegal command word (R254). -/
theorem step_illegal {e : Reject} (hd : decodeCmd w = .error e) :
    step s = .next ((s.setHost rest).raise .illegalCommand p) := by
  simp only [step, acceptNext, hh, accept, acceptCmd, State.setHost_pad, hp, hd]

end StepEquations

section AcceptedFeed
variable (b : Byte) (p : Pad)

/-- Everything an accepted `FEED` does to PAD, but its response (R211). -/
theorem Pad.feedByte_eq : p.feedByte b = { p with
    buf := (p.storeByte b).buf, bufLen := nextBufLen p.bufLen, bitCnt := p.bitCnt + 8, phase := .accumulating
    ovf := p.ovf || countWraps p.bitCnt } := by
  cases hw : countWraps p.bitCnt <;> simp [feedByte, countByte, hw, setFlag, storeByte, advance, setPhase, add64]

@[simp] theorem Pad.feedByte_buf : (p.feedByte b).buf = (p.storeByte b).buf := by rw [feedByte_eq]
@[simp] theorem Pad.feedByte_bufLen : (p.feedByte b).bufLen = nextBufLen p.bufLen := by rw [feedByte_eq]
@[simp] theorem Pad.feedByte_bitCnt : (p.feedByte b).bitCnt = p.bitCnt + 8 := by rw [feedByte_eq]
@[simp] theorem Pad.feedByte_phase : (p.feedByte b).phase = .accumulating := by rw [feedByte_eq]
@[simp] theorem Pad.feedByte_uaf : (p.feedByte b).uaf = p.uaf := by rw [feedByte_eq]
@[simp] theorem Pad.feedByte_ill : (p.feedByte b).ill = p.ill := by rw [feedByte_eq]
@[simp] theorem Pad.feedByte_ovf : (p.feedByte b).ovf = (p.ovf || countWraps p.bitCnt) := by rw [feedByte_eq]

end AcceptedFeed

end Sys2Proof.Machine
end

section
/-! SUPPORT. The invariant of PAD: each update that a command makes keeps it (R34 to R36, R252). -/

namespace Sys2Proof.Machine

theorem State.inv_of_pad_none {s : State} (hp : s.pad = none) : s.Inv := by
  intro p hp'
  simp [hp] at hp'

theorem State.inv_iff_of_pad_some {s : State} {p : Pad} (hp : s.pad = some p) : s.Inv ↔ PadInv s.h p := by
  simp [State.Inv, hp]

theorem State.inv_setPad {s : State} {p : Pad} : (s.setPad p).Inv ↔ PadInv s.h p := State.inv_iff_of_pad_some rfl

theorem State.inv_raise {s : State} {p : Pad} {c : Condition} : (s.raise c p).Inv ↔ PadInv s.h (p.raise c) :=
  State.inv_setPad

theorem padInv_reset : PadInv iv Pad.reset := by decide

section PadUpdates
variable {h h' : HashState} {p : Pad}

/-- The invariant says nothing of the response. -/
theorem padInv_respond (code : RspCode) (data : DigestPort) : PadInv h (p.respond code data) ↔ PadInv h p := Iff.rfl

/-- Nor of `ILL`, which is all that an illegal word sets. -/
theorem padInv_raise_illegalCommand : PadInv h (p.raise .illegalCommand) ↔ PadInv h p := Iff.rfl

theorem padInv_dropResponse : PadInv h p.dropResponse ↔ PadInv h p := Iff.rfl

theorem padInv_clear : PadInv iv p.clear := by simp [PadInv]

/-- Outside `Finalized` no `FEED` has been refused. -/
theorem PadInv.uaf_eq_false (hinv : PadInv h p) (hf : p.phase ≠ .finalized) : p.uaf = false := by
  obtain ⟨-, -, -, huaf⟩ := hinv
  simpa [hf] using huaf

/-- A byte advances length and counter together, at the wrap of either as well: 64 divides `2^61`. -/
theorem PadInv.feedByte (b : Byte) (hinv : PadInv h p) (hf : p.phase ≠ .finalized) : PadInv h' (p.feedByte b) := by
  have huaf := hinv.uaf_eq_false hf
  obtain ⟨hlen, hcnt, -, -⟩ := hinv
  have hlt := p.bitCnt.isLt
  have hadd : (p.bitCnt + 8).toNat = (p.bitCnt.toNat + 8) % 2 ^ 64 := by simp
  refine ⟨?_, ?_, by simp, by simp [huaf]⟩
  · rw [Pad.feedByte_bufLen, Pad.feedByte_bitCnt, nextBufLen_val, hadd]
    omega
  · rw [Pad.feedByte_bitCnt, hadd]
    omega

theorem PadInv.setPhase_accumulating (hinv : PadInv h p) (hf : p.phase ≠ .finalized) :
    PadInv h' (p.setPhase .accumulating) := by
  have huaf := hinv.uaf_eq_false hf
  obtain ⟨hlen, hcnt, -, -⟩ := hinv
  exact ⟨hlen, hcnt, by simp, by simp [huaf]⟩

theorem PadInv.setPhase_finalized (hinv : PadInv h p) : PadInv h' (p.setPhase .finalized) := by
  obtain ⟨hlen, hcnt, -, -⟩ := hinv
  exact ⟨hlen, hcnt, by simp, by simp⟩

/-- `UAF` is set where the invariant allows it: in `Finalized`. -/
theorem PadInv.raise_useAfterFinalize (hinv : PadInv h p) (hf : p.phase = .finalized) :
    PadInv h (p.raise .useAfterFinalize) := by
  obtain ⟨hlen, hcnt, hfresh, -⟩ := hinv
  exact ⟨hlen, hcnt, hfresh, fun _ => hf⟩

end PadUpdates

/-- Every command keeps the invariant. -/
theorem CommandEffect.inv {s t : State} {p : Pad} {i : Instr} (he : CommandEffect s p i t) (hinv : PadInv s.h p) :
    t.Inv := by
  cases he with
  | init => exact State.inv_setPad.mpr ((padInv_respond ..).mpr padInv_clear)
  | feed b hf => exact State.inv_setPad.mpr ((padInv_respond ..).mpr (hinv.feedByte b hf))
  | feedRefused b hf => exact State.inv_raise.mpr (hinv.raise_useAfterFinalize hf)
  | feed0 hf => exact State.inv_setPad.mpr ((padInv_respond ..).mpr (hinv.setPhase_accumulating hf))
  | feed0Refused hf => exact State.inv_raise.mpr (hinv.raise_useAfterFinalize hf)
  | finalFirst hf => exact State.inv_setPad.mpr ((padInv_respond ..).mpr hinv.setPhase_finalized)
  | finalLater hf => exact State.inv_setPad.mpr ((padInv_respond ..).mpr hinv.setPhase_finalized)
  | status => exact State.inv_setPad.mpr ((padInv_respond ..).mpr hinv)

theorem State.idle_inv {s : State} (hinv : s.Inv) : s.idle.Inv := by
  cases hp : s.pad with
  | none => exact State.inv_of_pad_none (by simp [hp])
  | some p =>
    have hpad : s.idle.pad = some p.dropResponse := by simp [hp]
    exact (State.inv_iff_of_pad_some hpad).mpr (padInv_dropResponse.mpr ((State.inv_iff_of_pad_some hp).mp hinv))

theorem State.applyReset_inv (s : State) : s.applyReset.Inv := by
  cases hp : s.pad with
  | none => exact State.inv_of_pad_none (by rw [State.applyReset_core hp])
  | some p => rw [State.applyReset_full hp]; exact (State.inv_iff_of_pad_some rfl).mpr padInv_reset

/-- Settles O33: the reset state of `CFG_FULL` has the values the invariant asks for, and `CFG_CORE` has no PAD. -/
theorem resetHasInvariant : Obligations.ResetHasInvariant := by
  unfold Obligations.ResetHasInvariant
  intro c
  cases c with
  | core => exact State.inv_of_pad_none rfl
  | full => exact (State.inv_iff_of_pad_some rfl).mpr padInv_reset

/-- Settles O34, by the cases of a step: `rst` restores the reset values, a command has one of the effects above, and a
core operation runs where there is no PAD. -/
theorem stepKeepsInvariant : Obligations.StepKeepsInvariant := by
  unfold Obligations.StepKeepsInvariant
  intro s t hinv hst
  obtain ⟨-, rfl⟩ | ⟨rest, -, rfl⟩ | ⟨_, rest, p, _, -, hp, hd, hex⟩ | ⟨_, rest, p, _, -, hp, -, rfl⟩ |
    ⟨_, _, rest, _, -, hp, hd, hex⟩ := step_next_cases hst
  · exact State.idle_inv hinv
  · exact State.applyReset_inv _
  · have he := commandEffect_of_exec (s := s.setHost rest) hp (decodeCmd_isCommand hd) hex
    exact he.inv ((State.inv_iff_of_pad_some hp).mp hinv)
  · exact State.inv_raise.mpr (padInv_raise_illegalCommand.mpr ((State.inv_iff_of_pad_some hp).mp hinv))
  · exact State.inv_of_pad_none ((exec_pad_of_not_isCommand (decodeCoreOp_not_isCommand hd) hex).trans hp)

end Sys2Proof.Machine
end

section
/-! SUPPORT. The pending bytes under an accepted `FEED` (R33, R211), and the `FEED` that wraps the counter (R256). -/

namespace Sys2Proof.Machine

section Pending
variable (b : Byte) {p : Pad}

@[simp] theorem Pad.pending_length : p.pending.length = p.bufLen.val := by
  have := p.bufLen.isLt
  simp only [pending, List.length_take, Vector.length_toList]
  omega

/-- The byte fed stands after the pending ones. -/
theorem Pad.take_storeByte : (p.storeByte b).buf.toList.take (p.bufLen.val + 1) = p.pending ++ [b] := by
  have hlt : p.bufLen.val < (p.buf.toList.set p.bufLen.val b).length := by simp
  rw [storeByte_buf, Vector.toList_set, List.take_succ_eq_append_getElem hlt, List.getElem_set_self,
    List.take_set_of_le (Nat.le_refl _), pending]

/-- The buffer that the 64th byte fills. -/
theorem Pad.toList_storeByte (hlen : p.bufLen.val = 63) : (p.storeByte b).buf.toList = p.pending ++ [b] := by
  rw [← p.take_storeByte b, hlen, List.take_of_length_le (by simp)]

theorem Pad.eq_storeByte_of_toList {block : Block} (hlen : p.bufLen.val = 63)
    (hblock : block.toList = p.pending ++ [b]) : block = (p.storeByte b).buf :=
  Vector.toList_inj.mp (hblock.trans (Pad.toList_storeByte b hlen).symm)

/-- The pending bytes after an accepted `FEED`: the 64th byte leaves none. -/
theorem Pad.pending_feedByte : (p.feedByte b).pending = if p.bufLen.val = 63 then [] else p.pending ++ [b] := by
  have hlt := p.bufLen.isLt
  rw [pending, feedByte_buf, feedByte_bufLen, nextBufLen_val]
  split
  · next hlen => simp [hlen]
  · rw [Nat.mod_eq_of_lt (by omega), take_storeByte]

end Pending

/-- At the last count before the wrap the buffer lacks one byte (R35). -/
theorem PadInv.bufLen_of_last_count {h : HashState} {p : Pad} (hinv : PadInv h p)
    (hcnt : p.bitCnt.toNat = 2 ^ 64 - 8) : p.bufLen.val = 63 := by
  obtain ⟨hlen, -⟩ := hinv
  omega

/-- Settles O23: at the last count the buffer holds 63 bytes, so the `FEED` that wraps the counter also drains. -/
theorem lengthOverflowWraps : Obligations.LengthOverflowWraps := by
  unfold Obligations.LengthOverflowWraps
  intro s p b hinv hp hf hcnt
  have hlen := ((State.inv_iff_of_pad_some hp).mp hinv).bufLen_of_last_count hcnt
  refine ⟨_, _, exec_feed_accepted hp b hf, rfl, ?_, ?_, ?_, rfl, fun block hblock => ?_⟩
  · rw [Pad.respond_bitCnt, Pad.feedByte_bitCnt]
    exact BitVec.eq_of_toNat_eq (by simp [hcnt])
  · simp [(countWraps_iff _).mpr hcnt]
  · rw [Pad.respond_bufLen, Pad.feedByte_bufLen]
    exact Fin.ext (by simp [nextBufLen_val, hlen])
  · rw [State.setPad_h, State.feedCore_h, if_pos hlen, Pad.eq_storeByte_of_toList b hlen hblock]

end Sys2Proof.Machine
end

section
/-! SUPPORT. Buffer cells at `BUFLEN` and above are never read (R33, R47): engines that differ only there are simulated
by each other, command by command. -/

namespace Sys2Proof.Machine

/-- PAD units that differ in stale cells only are one PAD with two buffers. -/
theorem Pad.sameLive_iff {p q : Pad} :
    p.SameLive q ↔ ∃ buf, buf.toList.take p.bufLen.val = p.pending ∧ q = { p with buf := buf } := by
  constructor
  · rintro ⟨hpend, hq⟩
    have hlen : p.bufLen = q.bufLen := by rw [← hq]
    exact ⟨q.buf, by rw [hpend, Pad.pending, hlen], hq.symm⟩
  · rintro ⟨buf, hbuf, rfl⟩
    exact ⟨hbuf.symm, rfl⟩

theorem Pad.SameLive.refl (p : Pad) : p.SameLive p := ⟨rfl, rfl⟩

/-- The tail reads the pending bytes only (R144). -/
theorem tailByte_congr {buf buf' : Vector Byte 64} {r : Nat} (h : buf.toList.take r = buf'.toList.take r)
    (cnt : BitVec 64) (j : Nat) : tailByte buf r cnt j = tailByte buf' r cnt j := by
  unfold tailByte
  split
  · next hj =>
    have hget := congrArg (fun l : List Byte => l.getD j 0) h
    simpa [List.getD_eq_getElem?_getD, List.getElem?_take, hj, Vector.getD] using hget
  · rfl

namespace Pad.SameLive
variable {p q : Pad} (hpq : p.SameLive q)
include hpq

/-- What is read of PAD without its buffer is the same. -/
theorem apply_eq {α : Type} (f : Pad → α) (hf : ∀ buf, f { p with buf := buf } = f p) : f q = f p := by
  obtain ⟨buf, -, rfl⟩ := Pad.sameLive_iff.mp hpq
  exact hf buf

theorem bufLen_eq : q.bufLen = p.bufLen := hpq.apply_eq Pad.bufLen fun _ => rfl
theorem phase_eq : q.phase = p.phase := hpq.apply_eq Pad.phase fun _ => rfl
theorem rsp_eq : q.rsp = p.rsp := hpq.apply_eq Pad.rsp fun _ => rfl
theorem statusWord_eq : statusWord q = statusWord p := hpq.apply_eq statusWord fun _ => rfl

theorem tailBlock_eq (k : Nat) : q.tailBlock k = p.tailBlock k := by
  obtain ⟨buf, hbuf, rfl⟩ := Pad.sameLive_iff.mp hpq
  unfold Pad.tailBlock Machine.tailBlock
  simp only [tailByte_congr (buf := buf) hbuf]

/-- An update that neither reads nor writes the buffer and its length keeps the pending bytes equal. -/
theorem update {f : Pad → Pad} (hf : ∀ buf, f { p with buf := buf } = { f p with buf := buf })
    (hbuf : (f p).buf = p.buf) (hlen : (f p).bufLen = p.bufLen) : (f p).SameLive (f q) := by
  obtain ⟨buf, hpend, rfl⟩ := Pad.sameLive_iff.mp hpq
  exact Pad.sameLive_iff.mpr ⟨buf, by rw [Pad.pending, hbuf, hlen, hpend, Pad.pending], hf buf⟩

theorem respond (code : RspCode) (data : DigestPort) : (p.respond code data).SameLive (q.respond code data) :=
  hpq.update (f := Pad.respond code data) (fun _ => rfl) rfl rfl

theorem dropResponse : p.dropResponse.SameLive q.dropResponse := hpq.update (fun _ => rfl) rfl rfl

theorem setPhase (ph : Phase) : (p.setPhase ph).SameLive (q.setPhase ph) :=
  hpq.update (f := Pad.setPhase ph) (fun _ => rfl) rfl rfl

theorem raise (c : Condition) : (p.raise c).SameLive (q.raise c) := by
  cases c <;> exact hpq.update (fun _ => rfl) rfl rfl

/-- `INIT` leaves no pending byte. -/
theorem clear : p.clear.SameLive q.clear := by
  obtain ⟨buf, -, rfl⟩ := Pad.sameLive_iff.mp hpq
  exact ⟨by simp [Pad.pending], rfl⟩

/-- An accepted `FEED` adds the same byte to the same pending bytes. -/
theorem feedByte (b : Byte) : (p.feedByte b).SameLive (q.feedByte b) := by
  obtain ⟨buf, hbuf, rfl⟩ := Pad.sameLive_iff.mp hpq
  refine ⟨?_, ?_⟩
  · rw [Pad.pending_feedByte, Pad.pending_feedByte, ← hbuf]
    rfl
  · rw [Pad.feedByte_eq, Pad.feedByte_eq]

/-- The buffers that a 64th byte fills are equal. -/
theorem storeByte_eq (b : Byte) (hlen : p.bufLen.val = 63) : (q.storeByte b).buf = (p.storeByte b).buf := by
  refine Pad.eq_storeByte_of_toList b hlen ?_
  rw [Pad.toList_storeByte b (by rw [hpq.bufLen_eq, hlen]), hpq.1]

end Pad.SameLive

section Engines
variable {s t s' : State} {p q : Pad} {i : Instr}

theorem State.sameLive_setPad (hh : s.h = t.h) (hhost : s.host = t.host) (hpq : p.SameLive q) :
    (s.setPad p).SameLive (t.setPad q) := ⟨hh, hhost, hpq⟩

theorem State.SameLive.refl (s : State) : s.SameLive s := by
  refine ⟨rfl, rfl, ?_⟩
  cases s.pad with
  | none => trivial
  | some p => exact Pad.SameLive.refl p

/-- Without a PAD there is no buffer to differ in. -/
theorem State.SameLive.eq_of_pad_none (hst : s.SameLive t) (hp : s.pad = none) : s = t := by
  obtain ⟨hs, pad, hostS⟩ := s
  obtain ⟨ht, pad', hostT⟩ := t
  obtain ⟨rfl, rfl, hpad⟩ := hst
  cases hp
  cases pad' with
  | none => rfl
  | some q => exact hpad.elim

theorem State.SameLive.exists_pad (hst : s.SameLive t) (hp : s.pad = some p) :
    ∃ q, t.pad = some q ∧ p.SameLive q := by
  obtain ⟨-, -, hpad⟩ := hst
  cases hq : t.pad with
  | none => simp [hp, hq] at hpad
  | some q => exact ⟨q, rfl, by simpa [hp, hq] using hpad⟩

/-- What the ports show depends on no stale cell. -/
theorem State.SameLive.ports_eq (hst : s.SameLive t) : s.response = t.response ∧ s.cState = t.cState := by
  cases hp : s.pad with
  | none => rw [hst.eq_of_pad_none hp]; exact ⟨rfl, rfl⟩
  | some p =>
    obtain ⟨q, hq, hpq⟩ := hst.exists_pad hp
    exact ⟨by simp [response, hp, hq, hpq.rsp_eq],
      by simp [cState, State.config_of_pad_some hp, State.config_of_pad_some hq]⟩

theorem State.feedCore_h_eq (hh : s.h = t.h) (hpq : p.SameLive q) (b : Byte) :
    (s.feedCore b p).h = (t.feedCore b q).h := by
  rw [State.feedCore_h, State.feedCore_h, hpq.bufLen_eq, hh]
  split
  · next hlen => rw [hpq.storeByte_eq b hlen]
  · rfl

theorem State.finalCore_h_eq (hh : s.h = t.h) (hpq : p.SameLive q) : (s.finalCore p).h = (t.finalCore q).h := by
  rw [State.finalCore_h, State.finalCore_h, hpq.bufLen_eq, hpq.tailBlock_eq, hpq.tailBlock_eq, hh]

/-- The simulation: a command does to the one engine what it does to the other. -/
theorem CommandEffect.exists_sameLive (he : CommandEffect s p i s') (hh : s.h = t.h) (hhost : s.host = t.host)
    (hpq : p.SameLive q) : ∃ t', CommandEffect t q i t' ∧ s'.SameLive t' := by
  have hph := hpq.phase_eq
  cases he with
  | init => exact ⟨_, .init, State.sameLive_setPad rfl hhost (hpq.clear.respond ..)⟩
  | feed b hf =>
    exact ⟨_, .feed b (hph ▸ hf), State.sameLive_setPad (State.feedCore_h_eq hh hpq b) (by simpa using hhost)
      ((hpq.feedByte b).respond ..)⟩
  | feedRefused b hf => exact ⟨_, .feedRefused b (hph.trans hf), State.sameLive_setPad hh hhost (hpq.raise _)⟩
  | feed0 hf => exact ⟨_, .feed0 (hph ▸ hf), State.sameLive_setPad hh hhost ((hpq.setPhase _).respond ..)⟩
  | feed0Refused hf => exact ⟨_, .feed0Refused (hph.trans hf), State.sameLive_setPad hh hhost (hpq.raise _)⟩
  | finalFirst hf =>
    refine ⟨_, .finalFirst (hph ▸ hf), ?_⟩
    rw [← State.finalCore_h_eq hh hpq]
    exact State.sameLive_setPad (State.finalCore_h_eq hh hpq) (by simpa using hhost) ((hpq.setPhase _).respond ..)
  | finalLater hf =>
    refine ⟨_, .finalLater (hph.trans hf), ?_⟩
    rw [← hh]
    exact State.sameLive_setPad hh hhost ((hpq.setPhase _).respond ..)
  | status =>
    refine ⟨_, .status, ?_⟩
    rw [hpq.statusWord_eq]
    exact State.sameLive_setPad hh hhost (hpq.respond ..)

/-- The simulation of a whole step of `CFG_FULL`. -/
theorem State.SameLive.step (hst : s.SameLive t) (hp : s.pad = some p) (hstep : step s = .next s') :
    ∃ t', Machine.step t = .next t' ∧ s'.SameLive t' := by
  obtain ⟨q, hq, hpq⟩ := hst.exists_pad hp
  obtain ⟨hh, hhost, -⟩ := hst
  obtain ⟨hnil, rfl⟩ | ⟨rest, hrst, rfl⟩ | ⟨w, rest, p', i, hcmd, hp', hd, hex⟩ | ⟨w, rest, p', e, hcmd, hp', hd, rfl⟩ |
    ⟨_, _, _, _, -, hnone, -, -⟩ := step_next_cases hstep
  · refine ⟨_, step_idle (hhost.symm.trans hnil), hh, hhost, ?_⟩
    simpa [hp, hq] using hpq.dropResponse
  · refine ⟨_, step_rst (hhost.symm.trans hrst), ?_⟩
    rw [State.applyReset_full (s := s.setHost rest) hp, State.applyReset_full (s := t.setHost rest) hq]
    exact State.SameLive.refl _
  · obtain rfl : p = p' := Option.some_inj.mp (hp.symm.trans hp')
    have he := commandEffect_of_exec (s := s.setHost rest) hp (decodeCmd_isCommand hd) hex
    obtain ⟨t', he', hlive⟩ := he.exists_sameLive (t := t.setHost rest) hh rfl hpq
    exact ⟨t', (step_command hq (hhost.symm.trans hcmd) hd).trans (he'.exec_eq hq), hlive⟩
  · obtain rfl : p = p' := Option.some_inj.mp (hp.symm.trans hp')
    exact ⟨_, step_illegal hq (hhost.symm.trans hcmd) hd, State.sameLive_setPad hh rfl (hpq.raise _)⟩
  · simp [hp] at hnone

end Engines

/-- Settles O39: in `CFG_CORE` the two engines are equal, and in `CFG_FULL` a step of the one is simulated by a step of
the other. -/
theorem staleBufferCellsAreNeverRead : Obligations.StaleBufferCellsAreNeverRead := by
  unfold Obligations.StaleBufferCellsAreNeverRead
  intro s t s' hst hstep
  cases hp : s.pad with
  | none =>
    obtain rfl := hst.eq_of_pad_none hp
    exact ⟨s', hstep, State.SameLive.refl s', rfl, rfl⟩
  | some p =>
    obtain ⟨t', hstep', hlive⟩ := hst.step hp hstep
    exact ⟨t', hstep', hlive, hlive.ports_eq⟩

end Sys2Proof.Machine
end

section
/-! SUPPORT. The encoder is the inverse of the decoder (R91 to R93, R101), and a step on an encoded command. -/

namespace Sys2Proof.Machine

theorem decodeCmd_encodedFeed : ∀ b : Byte, decodeCmd (0x2#4 ++ 0x0#4 ++ b) = .ok (.feed b) := by decide +kernel

/-- Decoding gives back the operation that was encoded, whatever its operand. -/
theorem decode_encode (i : Instr) : decode (encode i) = .ok i := by
  cases i with
  | feed b => exact decodeCmd_encodedFeed b
  | init | feed0 | final | status | cIdle | cInit | cNext => rfl

/-- A row whose mask has every bit is met by its own word only. -/
theorem CmdRow.eq_of_fits {w c : CmdWord} (h : (CmdRow.mk c 0xFFFF#16).fits w = true) : w = c := by
  have hmask : w &&& 0xFFFF#16 = w := BitVec.and_allOnes
  simpa [CmdRow.fits, hmask] using h

/-- The row of `FEED` fixes the upper byte. -/
theorem eq_of_rowFeed_fits {w : CmdWord} (h : rowFeed.fits w = true) : w = 0x2#4 ++ 0x0#4 ++ fieldImm8 w := by
  have hmasked : w &&& 0xFF00#16 = 0x2000#16 := by simpa [CmdRow.fits, rowFeed] using h
  have hupper : w.extractLsb' 8 8 = 0x20#8 := by
    have hcut := congrArg (BitVec.extractLsb' 8 8) hmasked
    rw [BitVec.extractLsb'_and] at hcut
    exact BitVec.and_allOnes.symm.trans hcut
  have hsplit : w = w.extractLsb' 8 8 ++ w.extractLsb' 0 8 := by
    rw [BitVec.extractLsb'_append_extractLsb'_eq_extractLsb' (by decide), BitVec.extractLsb'_eq_self]
  rw [hupper] at hsplit
  exact hsplit

/-- A legal command word is the encoding of its command. -/
theorem encode_of_decodeCmd {w : CmdWord} {i : Instr} (h : decodeCmd w = .ok i) : encode i = .cmd w := by
  unfold decodeCmd at h
  split at h
  · next hw => cases h; rw [CmdRow.eq_of_fits hw]; rfl
  split at h
  · next hw => cases h; exact congrArg PortWord.cmd (eq_of_rowFeed_fits hw).symm
  split at h
  · next hw => cases h; rw [CmdRow.eq_of_fits hw]; rfl
  split at h
  · next hw => cases h; rw [CmdRow.eq_of_fits hw]; rfl
  split at h
  · next hw => cases h; rw [CmdRow.eq_of_fits hw]; rfl
  · cases h

/-- A command is encoded as a command word. -/
theorem exists_cmd_of_isCommand {i : Instr} (hi : i.isCommand = true) : ∃ w, encode i = .cmd w := by
  cases i with
  | init | feed | feed0 | final | status => exact ⟨_, rfl⟩
  | cIdle | cInit | cNext => cases hi

/-- A step on an encoded command performs it (R97). -/
theorem step_encoded {s : State} {p : Pad} {i : Instr} {rest : List HostEvent} (hp : s.pad = some p)
    (hi : i.isCommand = true) (hh : s.host = .present (encode i) :: rest) : step s = exec i (s.setHost rest) := by
  obtain ⟨w, hw⟩ := exists_cmd_of_isCommand hi
  have hd : decodeCmd w = .ok i := by
    have := decode_encode i
    rwa [hw] at this
  exact step_command hp (hw ▸ hh) hd

end Sys2Proof.Machine
end

section
/-! SUPPORT. The whole blocks of a message (R146, R217): cutting off a part of whole blocks, and the two ends of the
recursion, no whole block and just one. -/

namespace Sys2Proof.Machine

/-- Past a part of `k` whole blocks, the blocks are those of the rest. -/
theorem blockAt_append_right {a : List Byte} (c : List Byte) {k : Nat} (ha : a.length = 64 * k) (i : Nat) :
    blockAt (a ++ c) (k + i) = blockAt c i := by
  unfold blockAt
  congr 1
  funext j
  rw [List.getD_append_right _ _ _ _ (by omega)]
  congr 1
  omega

theorem blockAt_append_left {a : List Byte} (c : List Byte) {i : Nat} (hi : 64 * (i + 1) ≤ a.length) :
    blockAt (a ++ c) i = blockAt a i := by
  unfold blockAt
  congr 1
  funext j
  exact List.getD_append _ _ _ _ (by omega)

theorem blocksOf_append {a : List Byte} (c : List Byte) (ha : 64 ∣ a.length) :
    blocksOf (a ++ c) = blocksOf a ++ blocksOf c := by
  obtain ⟨k, hk⟩ := ha
  have hcount : (a ++ c).length / 64 = k + c.length / 64 := by rw [List.length_append]; omega
  have hcount' : a.length / 64 = k := by omega
  unfold blocksOf
  rw [hcount, hcount', List.range_add, List.map_append, List.map_map]
  refine congrArg₂ (· ++ ·) ?_ ?_
  · exact List.map_congr_left fun i hi => blockAt_append_left c (by have := List.mem_range.mp hi; omega)
  · exact List.map_congr_left fun i _ => blockAt_append_right c hk i

theorem foldBlocks_append (h : HashState) {a : List Byte} (c : List Byte) (ha : 64 ∣ a.length) :
    foldBlocks h (a ++ c) = foldBlocks (foldBlocks h a) c := by
  simp only [foldBlocks, blocksOf_append c ha, List.foldl_append]

theorem foldBlocks_of_length_lt (h : HashState) {c : List Byte} (hc : c.length < 64) : foldBlocks h c = h := by
  simp [foldBlocks, blocksOf, Nat.div_eq_of_lt hc]

theorem blockAt_toList (b : Block) : blockAt b.toList 0 = b := by
  ext j hj
  simp [blockAt, List.getD_eq_getElem?_getD]

theorem foldBlocks_block (h : HashState) (b : Block) : foldBlocks h b.toList = compress h b := by
  simp [foldBlocks, blocksOf, blockAt_toList]

/-- The fold over a message is the fold over its whole blocks. -/
theorem foldBlocks_take (h : HashState) (m : List Byte) :
    foldBlocks h (m.take (64 * (m.length / 64))) = foldBlocks h m := by
  have hdvd : 64 ∣ (m.take (64 * (m.length / 64))).length := ⟨m.length / 64, by simp; omega⟩
  have hrest : (m.drop (64 * (m.length / 64))).length < 64 := by simp; omega
  conv_rhs => rw [← List.take_append_drop (64 * (m.length / 64)) m, foldBlocks_append h _ hdvd,
    foldBlocks_of_length_lt _ hrest]

/-- Appending to a message appends to the bytes that are in no whole block yet. -/
theorem foldBlocks_append_rest (h : HashState) (m c : List Byte) :
    foldBlocks h (m ++ c) = foldBlocks (foldBlocks h m) (m.drop (64 * (m.length / 64)) ++ c) := by
  have hdvd : 64 ∣ (m.take (64 * (m.length / 64))).length := ⟨m.length / 64, by simp; omega⟩
  conv_lhs => rw [← List.take_append_drop (64 * (m.length / 64)) m, List.append_assoc, foldBlocks_append h _ hdvd,
    foldBlocks_take]

end Sys2Proof.Machine
end

section
/-! SUPPORT. The accumulation invariant of R217, event by event. -/

namespace Sys2Proof.Machine

section Events
variable {s : State} {m : List Byte}

/-- A new engine has accumulated the empty message. -/
theorem accumulates_nil_of_fresh {p : Pad} (hp : s.pad = some p) (hh : s.h = iv) (hlen : p.bufLen = 0)
    (hcnt : p.bitCnt = 0) (hph : p.phase = .fresh) : Accumulates [] s :=
  ⟨p, hp, by simp [hph], fun _ => rfl, hh.trans (foldBlocks_of_length_lt iv (by simp)).symm, by simp [hlen],
    by simp [Pad.pending, hlen], by simp [hcnt]⟩

/-- An update of PAD that leaves the buffer, its length and the counter alone, and makes the engine neither new nor
finalized, keeps the message. -/
theorem Accumulates.setPad (hm : Accumulates m s) {p q : Pad} (hp : s.pad = some p) (hbuf : q.buf = p.buf)
    (hlen : q.bufLen = p.bufLen) (hcnt : q.bitCnt = p.bitCnt) (hfin : q.phase ≠ .finalized)
    (hfresh : q.phase = .fresh → p.phase = .fresh) : Accumulates m (s.setPad q) := by
  obtain ⟨p', hp', -, hnil, hh, hlen', hpend, hcnt'⟩ := hm
  obtain rfl : p = p' := Option.some_inj.mp (hp.symm.trans hp')
  refine ⟨q, rfl, hfin, fun hq => hnil (hfresh hq), hh, hlen ▸ hlen', ?_, hcnt.trans hcnt'⟩
  rw [← hpend, Pad.pending, Pad.pending, hbuf, hlen]

/-- What the host will present is no part of the message. -/
theorem Accumulates.setHost (hm : Accumulates m s) (l : List HostEvent) : Accumulates m (s.setHost l) := hm

/-- An accepted `FEED` appends its byte: at the end of a block it compresses the block, before that it stays pending. -/
theorem Accumulates.feed (hm : Accumulates m s) {p : Pad} (hp : s.pad = some p) (b : Byte) (code : RspCode)
    (data : DigestPort) : Accumulates (m ++ [b]) ((s.feedCore b p).setPad ((p.feedByte b).respond code data)) := by
  obtain ⟨p', hp', -, -, hh, hlen, hpend, hcnt⟩ := hm
  obtain rfl : p = p' := Option.some_inj.mp (hp.symm.trans hp')
  have hsize : (m ++ [b]).length = m.length + 1 := by simp
  have hH : (s.feedCore b p).h = foldBlocks iv (m ++ [b]) := by
    rw [State.feedCore_h, foldBlocks_append_rest, ← hpend, ← hh]
    split
    · next h63 => rw [← Pad.toList_storeByte b h63, foldBlocks_block]
    · next h63 => rw [foldBlocks_of_length_lt _ (by simp; omega)]
  have hpend' : (p.feedByte b).pending = (m ++ [b]).drop (64 * ((m ++ [b]).length / 64)) := by
    rw [Pad.pending_feedByte, hsize]
    split
    · next h63 => exact (List.drop_eq_nil_of_le (by simp; omega)).symm
    · next h63 =>
      have hdiv : (m.length + 1) / 64 = m.length / 64 := by omega
      rw [hdiv, List.drop_append_of_le_length (by omega), hpend]
  refine ⟨_, rfl, by simp, by simp, hH, ?_, hpend', ?_⟩
  · rw [Pad.respond_bufLen, Pad.feedByte_bufLen, nextBufLen_val, hlen, hsize]
    omega
  · rw [Pad.respond_bitCnt, Pad.feedByte_bitCnt, hcnt, hsize, Nat.mul_succ, BitVec.ofNat_add]
    rfl

theorem Accumulates.idle (hm : Accumulates m s) : Accumulates m s.idle := by
  have ⟨p, hp, hf, _⟩ := hm
  have hidle : s.idle = s.setPad p.dropResponse := by simp [State.idle, State.setPad, hp]
  rw [hidle]
  exact hm.setPad hp rfl rfl rfl hf id

/-- `FEED0`, `STATUS` and an illegal word keep the message. -/
theorem Accumulates.step_keeps (hm : Accumulates m s) {w : CmdWord} {rest : List HostEvent}
    (hh : s.host = .present (.cmd w) :: rest)
    (hd : decodeCmd w = .ok .feed0 ∨ decodeCmd w = .ok .status ∨ decodeCmd w = .error .illegalCommand) :
    ∃ t, step s = .next t ∧ Accumulates m t := by
  have ⟨p, hp, hf, _⟩ := hm
  rcases hd with hd | hd | hd
  · exact ⟨_, (step_command hp hh hd).trans (exec_feed0_accepted (s := s.setHost rest) hp hf),
      (hm.setHost rest).setPad hp rfl rfl rfl (by simp) (by simp)⟩
  · exact ⟨_, (step_command hp hh hd).trans (exec_status (s := s.setHost rest) hp),
      (hm.setHost rest).setPad hp rfl rfl rfl hf id⟩
  · exact ⟨_, step_illegal hp hh hd, (hm.setHost rest).setPad hp rfl rfl rfl hf id⟩

end Events

/-- Settles O40: `rst` and `INIT` make a new engine, `FEED` appends its byte, and the other events change neither the
buffer nor the counter. -/
theorem accumulationInvariant : Obligations.AccumulationInvariant := by
  unfold Obligations.AccumulationInvariant
  refine ⟨fun s p hp hh => ?_, fun s m b hm hh => ?_, fun s m w hm hh hd => ?_, fun s m hm hh => ?_⟩
  · rcases hh with hh | hh <;> obtain ⟨rest, hh⟩ := List.head?_eq_some_iff.mp hh
    · refine ⟨_, step_rst hh, ?_⟩
      rw [State.applyReset_full (s := s.setHost rest) hp]
      exact accumulates_nil_of_fresh rfl rfl rfl rfl rfl
    · exact ⟨_, (step_encoded hp rfl hh).trans (exec_init (s := s.setHost rest) hp),
        accumulates_nil_of_fresh rfl rfl rfl rfl rfl⟩
  · obtain ⟨rest, hh⟩ := List.head?_eq_some_iff.mp hh
    have ⟨p, hp, hf, _⟩ := hm
    exact ⟨_, (step_encoded hp rfl hh).trans (exec_feed_accepted (s := s.setHost rest) hp b hf),
      (hm.setHost rest).feed hp b ..⟩
  · obtain ⟨rest, hh⟩ := List.head?_eq_some_iff.mp hh
    exact hm.step_keeps hh hd
  · exact ⟨_, step_idle hh, hm.idle⟩

end Sys2Proof.Machine
end

section
/-! SUPPORT. Who writes `H` (R21, R193). -/

namespace Sys2Proof.Machine

/-- The three codes of the CORE port that are operations (R101). -/
theorem decodeCoreOp_cases {code : CoreCode} {b : BlockPort} {i : Instr} (h : decodeCoreOp code b = .ok i) :
    (code = 0#2 ∧ i = .cIdle) ∨ (code = 1#2 ∧ i = .cInit) ∨ (code = 2#2 ∧ i = .cNext b) := by
  unfold decodeCoreOp at h
  split at h
  · next hc => cases h; exact .inl ⟨hc, rfl⟩
  split at h
  · next hc => cases h; exact .inr (.inl ⟨hc, rfl⟩)
  split at h
  · next hc => cases h; exact .inr (.inr ⟨hc, rfl⟩)
  · cases h

/-- The commands that change `H`, each with the number of its compressions. -/
theorem CommandEffect.h_cases {s t : State} {p : Pad} {i : Instr} (he : CommandEffect s p i t) (hne : t.h ≠ s.h) :
    (i = .init ∧ t.h = iv) ∨
    (∃ b, i = .feed b ∧ p.phase ≠ .finalized ∧ p.bufLen.val = 63 ∧ ∃ block, t.h = compress s.h block) ∨
    (i = .final ∧ p.phase ≠ .finalized ∧ p.bufLen.val ≤ 55 ∧ ∃ block, t.h = compress s.h block) ∨
    (i = .final ∧ p.phase ≠ .finalized ∧ 56 ≤ p.bufLen.val ∧
      ∃ block₁ block₂, t.h = compress (compress s.h block₁) block₂) := by
  cases he with
  | init => exact .inl ⟨rfl, rfl⟩
  | feed b hf =>
    right; left
    by_cases hlen : p.bufLen.val = 63
    · exact ⟨b, rfl, hf, hlen, _, by rw [State.setPad_h, State.feedCore_h, if_pos hlen]⟩
    · rw [State.setPad_h, State.feedCore_h, if_neg hlen] at hne
      exact absurd rfl hne
  | finalFirst hf =>
    right; right
    by_cases hlen : 56 ≤ p.bufLen.val
    · exact .inr ⟨rfl, hf, hlen, _, _, by rw [State.setPad_h, State.finalCore_h, if_pos hlen]⟩
    · exact .inl ⟨rfl, hf, by omega, _, by rw [State.setPad_h, State.finalCore_h, if_neg hlen]⟩
  | feedRefused | feed0 | feed0Refused | finalLater | status => exact absurd rfl hne

/-- Settles O36, by the cases of a step: waiting and an illegal word do not touch `H`, and a legal word is the encoding
of its command. -/
theorem onlyListedWritersChangeH : Obligations.OnlyListedWritersChangeH := by
  unfold Obligations.OnlyListedWritersChangeH
  intro s t hst hne
  obtain ⟨-, rfl⟩ | ⟨rest, hh, rfl⟩ | ⟨w, rest, p, i, hh, hp, hd, hex⟩ | ⟨_, rest, p, _, -, -, -, rfl⟩ |
    ⟨code, b, rest, i, hh, -, hd, hex⟩ := step_next_cases hst
  · exact absurd rfl hne
  · exact .inl ⟨State.applyReset_h _, .rst, by rw [hh]; rfl, .inl rfl⟩
  · have he := commandEffect_of_exec (s := s.setHost rest) hp (decodeCmd_isCommand hd) hex
    have hhead : s.host.head? = some (.present (encode i)) := by rw [hh, encode_of_decodeCmd hd]; rfl
    obtain ⟨rfl, hH⟩ | ⟨b, rfl, hf, hlen, block, hH⟩ | ⟨rfl, hf, hlen, block, hH⟩ | ⟨rfl, hf, hlen, block₁, block₂, hH⟩ :=
      he.h_cases hne
    · exact .inl ⟨hH, _, hhead, .inr (.inl rfl)⟩
    · exact .inr (.inl ⟨block, hH, _, hhead, .inl ⟨p, b, hp, rfl, hf, hlen⟩⟩)
    · exact .inr (.inl ⟨block, hH, _, hhead, .inr (.inl ⟨p, hp, rfl, hf, hlen⟩)⟩)
    · exact .inr (.inr ⟨block₁, block₂, hH, p, hp, hhead, hf, hlen⟩)
  · exact absurd rfl hne
  · obtain ⟨rfl, rfl⟩ | ⟨rfl, rfl⟩ | ⟨rfl, rfl⟩ := decodeCoreOp_cases hd <;> cases hex
    · exact absurd rfl hne
    · exact .inl ⟨rfl, _, by rw [hh]; rfl, .inr (.inr ⟨b, rfl⟩)⟩
    · exact .inr (.inl ⟨_, rfl, _, by rw [hh]; rfl, .inr (.inr ⟨b, rfl, rfl⟩)⟩)

end Sys2Proof.Machine
end

section
/-! SUPPORT. The sticky flags (R37): what clears them, and that no command but `STATUS` reads them. -/

namespace Sys2Proof.Machine

/-- Every flag set in `p` is set in `q`. -/
def Pad.FlagsKept (p q : Pad) : Prop :=
  (p.uaf = true → q.uaf = true) ∧ (p.ovf = true → q.ovf = true) ∧ (p.ill = true → q.ill = true)

/-- `p` with other flags. -/
def Pad.withFlags (uaf ovf ill : Bool) (p : Pad) : Pad := { p with uaf := uaf, ovf := ovf, ill := ill }

theorem Pad.flagsKept_raise (c : Condition) (p : Pad) : p.FlagsKept (p.raise c) := by
  cases c <;> simp [FlagsKept, raise, setFlag]

/-- Only `INIT` clears a flag. -/
theorem CommandEffect.flagsKept {s t : State} {p : Pad} {i : Instr} (he : CommandEffect s p i t) (hi : i ≠ .init) :
    ∃ q, t.pad = some q ∧ p.FlagsKept q := by
  cases he with
  | init => exact absurd rfl hi
  | feed b hf => exact ⟨_, rfl, by simp +contextual [Pad.FlagsKept]⟩
  | feedRefused | feed0Refused => exact ⟨_, rfl, Pad.flagsKept_raise ..⟩
  | feed0 | finalFirst | finalLater | status => exact ⟨_, rfl, id, id, id⟩

/-- A command but `STATUS` does the same, whatever the flags before it. -/
theorem CommandEffect.exists_withFlags {s t : State} {p q : Pad} {i : Instr} (he : CommandEffect s p i t)
    (hi : i ≠ .status) (hq : t.pad = some q) (uaf ovf ill : Bool) :
    ∃ t' q', CommandEffect (s.setPad (p.withFlags uaf ovf ill)) (p.withFlags uaf ovf ill) i t' ∧ t'.pad = some q' ∧
      t'.h = t.h ∧ t'.host = t.host ∧ q'.withFlags q.uaf q.ovf q.ill = q := by
  cases he <;> cases hq
  case init => exact ⟨_, _, .init, rfl, rfl, rfl, rfl⟩
  case feed b hf =>
    refine ⟨_, _, .feed b hf, rfl, ?_, by simp, ?_⟩
    · rw [State.setPad_h, State.setPad_h, State.feedCore_h, State.feedCore_h]
      rfl
    · rw [Pad.feedByte_eq, Pad.feedByte_eq]
      rfl
  case feedRefused b hf => exact ⟨_, _, .feedRefused b hf, rfl, rfl, rfl, rfl⟩
  case feed0 hf => exact ⟨_, _, .feed0 hf, rfl, rfl, rfl, rfl⟩
  case feed0Refused hf => exact ⟨_, _, .feed0Refused hf, rfl, rfl, rfl, rfl⟩
  case finalFirst hf =>
    have hH : ((s.setPad (p.withFlags uaf ovf ill)).finalCore (p.withFlags uaf ovf ill)).h = (s.finalCore p).h := by
      rw [State.finalCore_h, State.finalCore_h]
      rfl
    refine ⟨_, _, .finalFirst hf, rfl, hH, by simp, ?_⟩
    rw [hH]
    rfl
  case finalLater hf => exact ⟨_, _, .finalLater hf, rfl, rfl, rfl, rfl⟩
  case status => exact absurd rfl hi

/-- A core operation neither reads nor writes PAD. -/
theorem exec_setPad_of_not_isCommand {s t : State} {i : Instr} (hi : i.isCommand = false) (hex : exec i s = .next t)
    (p : Pad) : exec i (s.setPad p) = .next (t.setPad p) := by
  cases i with
  | init | feed | feed0 | final | status => cases hi
  | cIdle | cInit | cNext => cases hex; rfl

/-- Settles O37: of the events but `rst` and `INIT`, a command keeps every flag and an illegal word sets one; and a
command finds its flags read by `STATUS` alone. -/
theorem flagsAreStickyAndInert : Obligations.FlagsAreStickyAndInert := by
  unfold Obligations.FlagsAreStickyAndInert
  refine ⟨fun s t p hp hst hrst hinit => ?_, fun s p i uaf ovf ill t q hp hi hex hq => ?_⟩
  · obtain ⟨-, rfl⟩ | ⟨rest, hh, -⟩ | ⟨w, rest, p', i, hh, hp', hd, hex⟩ | ⟨_, _, p', _, -, hp', -, rfl⟩ |
      ⟨_, _, _, _, -, hnone, -, -⟩ := step_next_cases hst
    · exact ⟨p.dropResponse, by simp [hp], id, id, id⟩
    · exact absurd (by rw [hh]; rfl) hrst
    · obtain rfl : p = p' := Option.some_inj.mp (hp.symm.trans hp')
      have hi : i ≠ .init := by
        rintro rfl
        exact hinit (by rw [hh, encode_of_decodeCmd hd]; rfl)
      exact (commandEffect_of_exec (s := s.setHost rest) hp (decodeCmd_isCommand hd) hex).flagsKept hi
    · obtain rfl : p = p' := Option.some_inj.mp (hp.symm.trans hp')
      exact ⟨_, rfl, Pad.flagsKept_raise ..⟩
    · simp [hp] at hnone
  · cases hcmd : i.isCommand with
    | true =>
      obtain ⟨t', q', he, hrest⟩ := (commandEffect_of_exec hp hcmd hex).exists_withFlags hi hq uaf ovf ill
      exact ⟨t', q', he.exec_eq rfl, hrest⟩
    | false =>
      obtain rfl : p = q := Option.some_inj.mp (hp.symm.trans ((exec_pad_of_not_isCommand hcmd hex).symm.trans hq))
      exact ⟨_, _, exec_setPad_of_not_isCommand hcmd hex _, rfl, rfl, rfl, rfl⟩

end Sys2Proof.Machine
end

section
/-! SUPPORT. The values at reset (R45, R290, R293), the layout of the status word (R38), and the constants (R24, R26). -/

namespace Sys2Proof.Machine

/-- Settles O16: the values as `State.resetOf` writes them, and their status word. -/
theorem resetStateIsFresh : Obligations.ResetStateIsFresh := by
  unfold Obligations.ResetStateIsFresh
  exact ⟨rfl, ⟨Pad.reset, rfl, rfl, rfl, rfl, rfl, rfl, rfl, by decide⟩, rfl, rfl⟩

theorem State.applyReset_rspValid (s : State) : s.applyReset.rspValid = false := by
  cases hp : s.pad with
  | none => rw [State.applyReset_core hp]; rfl
  | some p => rw [State.applyReset_full hp]; rfl

theorem hashPort_iv :
    hashPort iv = 0x6A09E667BB67AE853C6EF372A54FF53A510E527F9B05688C1F83D9AB5BE0CD19#256 := by decide +kernel

/-- Settles O17: `rst` keeps the configuration, which has the command port, and leaves `IV` in `H` and no response. -/
theorem portsAfterReset : Obligations.PortsAfterReset := by
  unfold Obligations.PortsAfterReset
  intro s rest hh
  refine ⟨_, step_rst hh, by simp, fun hfull => ?_, State.applyReset_rspValid _, rfl, ?_⟩
  · rw [State.cmdReady, hfull]
    rfl
  · rw [State.coreState, State.applyReset_h, hashPort_iv]

/-- Concatenation as numbers. -/
theorem toNat_append_eq_add {m n : Nat} (x : BitVec m) (y : BitVec n) :
    (x ++ y).toNat = x.toNat * 2 ^ n + y.toNat := by
  rw [BitVec.toNat_append, ← Nat.shiftLeft_add_eq_or_of_lt y.isLt, Nat.shiftLeft_eq]

/-- The status word as a number (R38). -/
theorem statusWord_toNat (p : Pad) : (statusWord p).toNat =
    p.phase.bits.toNat + 4 * p.uaf.toNat + 8 * p.ovf.toNat + 16 * p.ill.toNat + 256 * p.bufLen.val := by
  have hlen : p.bufLen.val % 2 ^ 6 = p.bufLen.val := Nat.mod_eq_of_lt p.bufLen.isLt
  simp only [statusWord, toNat_append_eq_add, BitVec.toNat_ofBool, BitVec.toNat_ofNat, hlen]
  omega

/-- A field of a bit vector, read off its number. -/
theorem extractLsb'_eq_of_toNat {n : Nat} (x : BitVec n) (start len : Nat) (y : BitVec len)
    (h : x.toNat / 2 ^ start % 2 ^ len = y.toNat) : x.extractLsb' start len = y :=
  BitVec.eq_of_toNat_eq (by rw [BitVec.extractLsb'_toNat, Nat.shiftRight_eq_div_pow, h])

/-- The fields of the status word and its reserved bits (R38): each is a quotient and a remainder of the number. -/
theorem statusWord_fields (p : Pad) :
    (statusWord p).extractLsb' 0 2 = p.phase.bits ∧ (statusWord p).extractLsb' 2 1 = BitVec.ofBool p.uaf ∧
    (statusWord p).extractLsb' 3 1 = BitVec.ofBool p.ovf ∧ (statusWord p).extractLsb' 4 1 = BitVec.ofBool p.ill ∧
    (statusWord p).extractLsb' 5 3 = 0 ∧ (statusWord p).extractLsb' 8 6 = BitVec.ofNat 6 p.bufLen.val ∧
    (statusWord p).extractLsb' 14 2 = 0 := by
  have hph := p.phase.bits.isLt
  have hu := p.uaf.toNat_lt
  have ho := p.ovf.toNat_lt
  have hi := p.ill.toNat_lt
  have hlen := p.bufLen.isLt
  refine ⟨?_, ?_, ?_, ?_, ?_, ?_, ?_⟩ <;>
    refine extractLsb'_eq_of_toNat _ _ _ _ ?_ <;>
    simp only [statusWord_toNat, BitVec.toNat_ofBool, BitVec.ofNat_eq_ofNat, BitVec.toNat_ofNat] <;>
    omega

/-- Settles O29: number and fields are those of the encoding of the phase, and `STATUS` answers with the word. -/
theorem statusWordFormula : Obligations.StatusWordFormula := by
  unfold Obligations.StatusWordFormula
  refine ⟨by decide, fun s p hp => ⟨_, exec_status hp, rfl⟩, fun p => ⟨?_, ?_⟩⟩
  · rw [statusWord_toNat]
    cases p.phase <;> rfl
  · obtain ⟨hphase, hrest⟩ := statusWord_fields p
    refine ⟨?_, hrest⟩
    rw [hphase]
    cases p.phase <;> rfl

/-- Settles O52, by running the model's compression on the one block. -/
theorem compressOfSpecBlock : Obligations.CompressOfSpecBlock := by
  unfold Obligations.CompressOfSpecBlock
  decide +kernel

/-- The first 64 primes are the primes below 312. -/
theorem firstPrimes_eq : firstPrimes = (List.range 312).filter fun n => decide (Nat.Prime n) := by decide +kernel

/-- Settles O53: the list of primes, the eight square roots and the 64 cube roots are each a check of numbers. -/
theorem constantsAreRootFractions : Obligations.ConstantsAreRootFractions := by
  unfold Obligations.ConstantsAreRootFractions
  exact ⟨firstPrimes_eq, by decide +kernel, by decide +kernel⟩

end Sys2Proof.Machine
end

section
/-! SUPPORT. Big-endian readings (R64): words of one width joined to a number, first word on top, and the field in which
each word stands. Bytes on a port and the words of `c_state` are the widths 8 and 32. -/

namespace Sys2Proof.Machine

/-- The number whose digits to base `2 ^ w` are `xs`, the most significant first. -/
def bigEndianNat {w : Nat} (xs : List (BitVec w)) : Nat := Nat.ofDigits (2 ^ w) (xs.map BitVec.toNat).reverse

section Reading
variable {w : Nat} (xs : List (BitVec w))

/-- The same number, read from the first word on. -/
theorem bigEndianNat_eq_foldl : bigEndianNat xs = xs.foldl (fun n x => 2 ^ w * n + x.toNat) 0 := by
  simp only [bigEndianNat, Nat.ofDigits_eq_foldr, List.foldr_reverse, List.foldl_map, Nat.cast_id, Nat.add_comm]

theorem beNat_eq_bigEndianNat (bs : List Byte) : beNat bs = bigEndianNat bs := (bigEndianNat_eq_foldl bs).symm

theorem hashPort_eq_bigEndianNat (h : HashState) : hashPort h = BitVec.ofNat 256 (bigEndianNat h.toList) := by
  rw [bigEndianNat_eq_foldl, hashPort]

/-- Every word is a digit to base `2 ^ w`. -/
theorem digit_lt_of_mem {n : Nat} (hn : n ∈ (xs.map BitVec.toNat).reverse) : n < 2 ^ w := by
  obtain ⟨x, -, rfl⟩ := List.mem_map.mp (List.mem_reverse.mp hn)
  exact x.isLt

theorem bigEndianNat_lt (hw : 0 < w) : bigEndianNat xs < 2 ^ (w * xs.length) := by
  have hlt := Nat.ofDigits_lt_base_pow_length (Nat.one_lt_two_pow hw.ne') fun n hn => digit_lt_of_mem xs hn
  rwa [List.length_reverse, List.length_map, ← pow_mul] at hlt

/-- Word `i` is the digit with `xs.length - 1 - i` digits below it. -/
theorem bigEndianNat_digit {i : Nat} (hi : i < xs.length) :
    bigEndianNat xs / 2 ^ (w * (xs.length - 1 - i)) % 2 ^ w = xs[i].toNat := by
  have hlen : xs.length - 1 - i < (xs.map BitVec.toNat).reverse.length := by simp; omega
  have hback : xs.length - 1 - (xs.length - 1 - i) = i := by omega
  rw [bigEndianNat, pow_mul, Nat.ofDigits_div_pow_eq_ofDigits_drop _ (Nat.two_pow_pos w) _ fun _ => digit_lt_of_mem xs,
    List.drop_eq_getElem_cons hlen, Nat.ofDigits_cons, Nat.add_mul_mod_self_left]
  simp [hback]

section Port
variable {N : Nat} (hw : 0 < w) (hN : w * xs.length = N)
include hw hN

/-- A port just wide enough loses nothing of the number. -/
theorem toNat_ofNat_bigEndianNat : (BitVec.ofNat N (bigEndianNat xs)).toNat = bigEndianNat xs := by
  rw [BitVec.toNat_ofNat, Nat.mod_eq_of_lt]
  exact hN ▸ bigEndianNat_lt xs hw

/-- On a port just wide enough, word `i` stands in the field with the later words below it. -/
theorem extractLsb'_ofNat_bigEndianNat {i : Nat} (hi : i < xs.length) :
    (BitVec.ofNat N (bigEndianNat xs)).extractLsb' (w * (xs.length - 1 - i)) w = xs[i] := by
  refine extractLsb'_eq_of_toNat _ _ _ _ ?_
  rw [toNat_ofNat_bigEndianNat xs hw hN, bigEndianNat_digit xs hi]

end Port

end Reading

/-- Two fields of a bit vector taken one inside the other. -/
theorem extractLsb'_extractLsb' {n : Nat} (x : BitVec n) {start len start' len' : Nat} (h : start' + len' ≤ len) :
    (x.extractLsb' start len).extractLsb' start' len' = x.extractLsb' (start + start') len' := by
  ext i hi
  have hlt : start' + i < len := by omega
  simp [hlt, Nat.add_assoc]

end Sys2Proof.Machine
end

section
/-! SUPPORT. The block on the `c_block` pins and back (R64, R102), the schedule words on them (R163), and the digest on
`rsp_data` and `c_state` (R66, R103). -/

namespace Sys2Proof.Machine

section BlockPins
variable (b : Block) (pins : BlockPort)

theorem getElem_blockOfPort {j : Nat} (hj : j < 64) : (blockOfPort pins)[j] = pins.extractLsb' (504 - 8 * j) 8 := by
  simp [blockOfPort]

/-- The pins under a block give it back. -/
theorem blockOfPort_portOfBlock : blockOfPort (portOfBlock b) = b := by
  ext1 j hj
  have hpos : 504 - 8 * j = 8 * (b.toList.length - 1 - j) := by simp; omega
  rw [getElem_blockOfPort, portOfBlock, beNat_eq_bigEndianNat, hpos,
    extractLsb'_ofNat_bigEndianNat _ (by decide) (by simp) (by simpa using hj), Vector.getElem_toList]

/-- Every pin belongs to a byte of the block. -/
theorem blockOfPort_injective : Function.Injective blockOfPort := by
  intro x y hxy
  refine BitVec.eq_of_getLsbD_eq fun n hn => ?_
  have hj : 63 - n / 8 < 64 := by omega
  have hbyte : x.extractLsb' (504 - 8 * (63 - n / 8)) 8 = y.extractLsb' (504 - 8 * (63 - n / 8)) 8 := by
    rw [← getElem_blockOfPort x hj, ← getElem_blockOfPort y hj, hxy]
  have hbit := congrArg (·.getLsbD (n % 8)) hbyte
  have hpos : 504 - 8 * (63 - n / 8) + n % 8 = n := by omega
  simpa [hpos, Nat.mod_lt] using hbit

theorem portOfBlock_blockOfPort : portOfBlock (blockOfPort pins) = pins :=
  blockOfPort_injective (blockOfPort_portOfBlock _)

theorem toNat_portOfBlock : (portOfBlock b).toNat = beNat b.toList := by
  rw [portOfBlock, beNat_eq_bigEndianNat, toNat_ofNat_bigEndianNat _ (by decide) (by simp)]

end BlockPins

/-- The expansion appends, so the words that were there stay. -/
theorem wAt_schedExp (ws : List Word) (t : Nat) {i : Nat} (hi : i < ws.length) : wAt (schedExp ws t) i = wAt ws i :=
  List.getD_append _ _ _ _ hi

theorem wAt_foldl_schedExp (ts : List Nat) (ws : List Word) {i : Nat} (hi : i < ws.length) :
    wAt (ts.foldl schedExp ws) i = wAt ws i := by
  induction ts generalizing ws with
  | nil => rfl
  | cons t ts ih => rw [List.foldl_cons, ih _ (by simp; omega), wAt_schedExp ws t hi]

/-- The first 16 schedule words are those loaded from the block (R163). -/
theorem wAt_sched (b : Block) {i : Nat} (hi : i < 16) :
    wAt (sched b) i = be32 b[4 * i] b[4 * i + 1] b[4 * i + 2] b[4 * i + 3] := by
  rw [sched, wAt_foldl_schedExp _ _ (by simpa using hi), wAt_eq _ _ (by simpa using hi)]
  simp only [schedLoad, List.getElem_map, List.getElem_range]
  rw [blockByte_eq, blockByte_eq, blockByte_eq, blockByte_eq]

/-- Four adjoining bytes of a port are one word of it. -/
theorem be32_extractLsb' {n : Nat} (x : BitVec n) (p : Nat) :
    be32 (x.extractLsb' (p + 24) 8) (x.extractLsb' (p + 16) 8) (x.extractLsb' (p + 8) 8) (x.extractLsb' p 8) =
      x.extractLsb' p 32 := by
  rw [be32, BitVec.extractLsb'_append_extractLsb'_eq_extractLsb' (by omega),
    BitVec.extractLsb'_append_extractLsb'_eq_extractLsb' (by omega),
    BitVec.extractLsb'_append_extractLsb'_eq_extractLsb' (by omega)]

theorem wAt_sched_blockOfPort (pins : BlockPort) {i : Nat} (hi : i < 16) :
    wAt (sched (blockOfPort pins)) i = pins.extractLsb' (480 - 32 * i) 32 := by
  rw [wAt_sched _ hi, ← be32_extractLsb']
  simp only [getElem_blockOfPort]
  congr 2 <;> omega

section Digest
variable (h : HashState)

@[simp] theorem digest_length : (digest h).length = 32 := by simp [digest]

theorem be32Bytes_eq (w : Word) : be32Bytes w = [be32Byte w 0, be32Byte w 1, be32Byte w 2, be32Byte w 3] := rfl

/-- Reading on over the four bytes of a word is reading on over the word. -/
theorem foldl_be32Bytes (w : Word) (n : Nat) :
    (be32Bytes w).foldl (fun n b => 2 ^ 8 * n + b.toNat) n = 2 ^ 32 * n + w.toNat := by
  have hw := w.isLt
  simp only [be32Bytes_eq, be32Byte, List.foldl_cons, List.foldl_nil, BitVec.extractLsb'_toNat,
    Nat.shiftRight_eq_div_pow]
  omega

theorem beNat_digest : beNat (digest h) = h.toList.foldl (fun n w => 2 ^ 32 * n + w.toNat) 0 := by
  simp only [beNat, digest, List.foldl_flatMap, foldl_be32Bytes]

/-- `c_state` and `rsp_data` place the words of `H` alike (R64). -/
theorem hashPort_eq_bytesPort_digest : hashPort h = bytesPort (digest h) := by
  rw [hashPort, bytesPort, beNat_digest]

theorem extractLsb'_bytesPort_word {i : Nat} (hi : i < 8) :
    (bytesPort (digest h)).extractLsb' (224 - 32 * i) 32 = h[i] := by
  have hpos : 224 - 32 * i = 32 * (h.toList.length - 1 - i) := by simp; omega
  rw [← hashPort_eq_bytesPort_digest, hashPort_eq_bigEndianNat, hpos,
    extractLsb'_ofNat_bigEndianNat _ (by decide) (by simp) (by simpa using hi), Vector.getElem_toList]

theorem extractLsb'_bytesPort_byte {j : Nat} (hj : j < 32) :
    (bytesPort (digest h)).extractLsb' (248 - 8 * j) 8 = (digest h).getD j 0 := by
  have hlt : j < (digest h).length := by simpa using hj
  have hpos : 248 - 8 * j = 8 * ((digest h).length - 1 - j) := by simp; omega
  rw [bytesPort, beNat_eq_bigEndianNat, hpos, extractLsb'_ofNat_bigEndianNat _ (by decide) (by simp) hlt,
    List.getD_eq_getElem _ _ hlt]

/-- Byte `k` of word `i` and digest byte `4*i + k` are one field of the port. -/
theorem getD_digest {i k : Nat} (hi : i < 8) (hk : k < 4) : (digest h).getD (4 * i + k) 0 = be32Byte h[i] k := by
  have hpos : 224 - 32 * i + (24 - 8 * k) = 248 - 8 * (4 * i + k) := by omega
  rw [be32Byte, ← extractLsb'_bytesPort_word h hi, extractLsb'_extractLsb' _ (by omega), hpos,
    extractLsb'_bytesPort_byte h (by omega)]

theorem toNat_bytesPort_digest : (bytesPort (digest h)).toNat = beNat (digest h) := by
  rw [bytesPort, beNat_eq_bigEndianNat, toNat_ofNat_bigEndianNat _ (by decide) (by simp)]

end Digest

/-- Settles O59: each word is a field of the big-endian reading, of 32-bit words as of bytes, and the pins hold the
block that they give. -/
theorem portPlacement : Obligations.PortPlacement := by
  unfold Obligations.PortPlacement
  refine ⟨fun h => ⟨fun i hi => extractLsb'_bytesPort_word h hi, fun j hj => extractLsb'_bytesPort_byte h hj,
    fun i k hi hk => getD_digest h hi hk, hashPort_eq_bytesPort_digest h, toNat_bytesPort_digest h⟩,
    fun pins => ⟨fun j hj => getElem_blockOfPort pins hj, fun i hi => wAt_sched_blockOfPort pins hi, ?_⟩⟩
  rw [← toNat_portOfBlock, portOfBlock_blockOfPort]

/-- Settles O32: the 64th byte fills the buffer to the given block, which the pins give back to `C_NEXT`. -/
theorem drainIsOneCoreNext : Obligations.DrainIsOneCoreNext := by
  unfold Obligations.DrainIsOneCoreNext
  intro s p b block hp hf hlen hblock
  refine ⟨_, _, exec_feed_accepted hp b hf, rfl, ?_⟩
  rw [State.setPad_h, State.feedCore_h, if_pos hlen, State.coreNext_h, blockOfPort_portOfBlock,
    Pad.eq_storeByte_of_toList b hlen hblock]

end Sys2Proof.Machine
end

section
/-! SUPPORT. A step on a core operation (R100, R101), beside the one on a command. -/

namespace Sys2Proof.Machine

/-- A step on a core operation of `CFG_CORE` (R100). -/
theorem step_coreOp {s : State} {code : CoreCode} {b : BlockPort} {rest : List HostEvent} {i : Instr}
    (hp : s.pad = none) (hh : s.host = .present (.coreOp code b) :: rest) (hd : decodeCoreOp code b = .ok i) :
    step s = exec i (s.setHost rest) := by
  simp only [step, acceptNext, hh, accept, acceptCoreOp, State.setHost_pad, hp, hd]

/-- Settles O8: on either port the step performs what the decoder answers. -/
theorem stepRunsDecodedOperation : Obligations.StepRunsDecodedOperation := by
  unfold Obligations.StepRunsDecodedOperation
  exact ⟨fun s p w rest i hp hh hd => step_command hp hh hd, fun s code b rest i hp hh hd => step_coreOp hp hh hd⟩

end Sys2Proof.Machine
end

section
/-! SUPPORT. The legal command words (R93, R95): the encodings of the commands, their fields and their count. -/

namespace Sys2Proof.Machine

/-- Settles O2: each arm of the encoder meets its own row of the decoder. -/
theorem decodeOfEncodeIsIdentity : Obligations.DecodeOfEncodeIsIdentity := by
  unfold Obligations.DecodeOfEncodeIsIdentity
  exact decode_encode

/-- Settles O3: every row of the decoder fixes the word but for the operand of `FEED`. -/
theorem commandWordIsItsEncoding : Obligations.CommandWordIsItsEncoding := by
  unfold Obligations.CommandWordIsItsEncoding
  exact fun _ _ => encode_of_decodeCmd

/-- Settles O1: the words are closed terms, on which the decoder computes. -/
theorem specWordsDecode : Obligations.SpecWordsDecode := by
  unfold Obligations.SpecWordsDecode
  exact ⟨rfl, rfl, rfl, rfl, rfl, rfl, rfl, rfl, rfl, rfl, rfl, rfl⟩

section Fields
variable (op zero : BitVec 4) (imm8 : Byte)

@[simp] theorem fieldOp_append : fieldOp (op ++ zero ++ imm8) = op := by
  rw [fieldOp, BitVec.extractLsb'_append_eq_of_le (by decide)]
  exact BitVec.extractLsb'_append_eq_left

@[simp] theorem fieldZero_append : fieldZero (op ++ zero ++ imm8) = zero := by
  rw [fieldZero, BitVec.extractLsb'_append_eq_of_le (by decide)]
  exact BitVec.extractLsb'_append_eq_right

@[simp] theorem fieldImm8_append : fieldImm8 (op ++ zero ++ imm8) = imm8 := BitVec.extractLsb'_append_eq_right

end Fields

section Words
variable {w : CmdWord}

/-- A command word is the three fields of R91, `OP` on top. -/
theorem append_fields (w : CmdWord) : fieldOp w ++ fieldZero w ++ fieldImm8 w = w := by
  rw [fieldOp, fieldZero, fieldImm8, BitVec.extractLsb'_append_extractLsb'_eq_extractLsb' (by decide),
    BitVec.extractLsb'_append_extractLsb'_eq_extractLsb' (by decide), BitVec.extractLsb'_eq_self]

/-- The decoder accepts the encodings of the five commands and nothing else (R93). -/
theorem decodeCmd_toBool_iff : (decodeCmd w).toBool = true ↔
    (∃ b : Byte, w = 0x2#4 ++ 0x0#4 ++ b) ∨ w = 0x1000#16 ∨ w = 0x3000#16 ∨ w = 0x4000#16 ∨ w = 0x5000#16 := by
  constructor
  · intro h
    cases hd : decodeCmd w with
    | error e => simp [hd, Except.toBool] at h
    | ok i =>
      have hw := encode_of_decodeCmd hd
      cases i with
      | feed b => exact .inl ⟨b, (PortWord.cmd.inj hw).symm⟩
      | init | feed0 | final | status => cases hw; decide
      | cIdle | cInit | cNext => cases hw
  · rintro (⟨b, rfl⟩ | rfl | rfl | rfl | rfl)
    · rw [decodeCmd_encodedFeed]; rfl
    all_goals rfl

/-- The same, field by field (R91, R93). -/
theorem decodeCmd_toBool_iff_fields : (decodeCmd w).toBool = true ↔
    fieldZero w = 0#4 ∧ (fieldOp w = 2#4 ∨
      (fieldOp w = 1#4 ∨ fieldOp w = 3#4 ∨ fieldOp w = 4#4 ∨ fieldOp w = 5#4) ∧ fieldImm8 w = 0#8) := by
  rw [decodeCmd_toBool_iff]
  constructor
  · rintro (⟨b, rfl⟩ | rfl | rfl | rfl | rfl)
    · exact ⟨fieldZero_append .., .inl (fieldOp_append ..)⟩
    all_goals decide
  · rintro ⟨hzero, hop⟩
    rw [← append_fields w, hzero]
    rcases hop with hop | ⟨hop | hop | hop | hop, himm⟩
    · exact .inl ⟨_, by rw [hop]⟩
    all_goals rw [hop, himm]; decide

/-- The decoder of command words has one reason to reject (R95). -/
theorem decodeCmd_error_iff : decodeCmd w = .error .illegalCommand ↔ ¬ (decodeCmd w).toBool = true := by
  unfold decodeCmd
  repeat' split
  all_goals simp [Except.toBool]

/-- Settles O4: the complement of the legal words, told field by field. -/
theorem illegalCommandWords : Obligations.IllegalCommandWords := by
  unfold Obligations.IllegalCommandWords
  intro w
  rw [decodeCmd_error_iff, decodeCmd_toBool_iff_fields]
  have hop : ∀ op : BitVec 4, (op = 0#4 ∨ 6#4 ≤ op) ↔ ¬ (op = 2#4 ∨ op = 1#4 ∨ op = 3#4 ∨ op = 4#4 ∨ op = 5#4) := by
    decide
  have hfeed : fieldOp w = 2#4 → ¬ (fieldOp w = 1#4 ∨ fieldOp w = 3#4 ∨ fieldOp w = 4#4 ∨ fieldOp w = 5#4) := by
    intro h; rw [h]; decide
  rw [hop]
  tauto

/-- The legal command words as numbers: the 256 of `FEED` and four more. -/
def legalWordNumbers : Finset Nat := Finset.Ico 0x2000 0x2100 ∪ {0x1000, 0x3000, 0x4000, 0x5000}

theorem legalWordNumbers_card : legalWordNumbers.card = 260 := by
  have hdisj : Disjoint (Finset.Ico 0x2000 0x2100) {0x1000, 0x3000, 0x4000, 0x5000} := by
    rw [Finset.disjoint_left]
    intro n hn
    simp only [Finset.mem_Ico, Finset.mem_insert, Finset.mem_singleton] at hn ⊢
    omega
  rw [legalWordNumbers, Finset.card_union_of_disjoint hdisj, Nat.card_Ico]
  rfl

/-- A number is the word of a `FEED` when its upper byte is `0x20` (R93). -/
theorem exists_ofNat_eq_encodedFeed {n : Nat} (hn : n < 65536) :
    (∃ b : Byte, BitVec.ofNat 16 n = 0x2#4 ++ 0x0#4 ++ b) ↔ 0x2000 ≤ n ∧ n < 0x2100 := by
  have hword (b : Byte) : (0x2#4 ++ 0x0#4 ++ b).toNat = 0x2000 + b.toNat := by
    rw [toNat_append_eq_add]
    rfl
  have hnum : (BitVec.ofNat 16 n).toNat = n := Nat.mod_eq_of_lt hn
  constructor
  · rintro ⟨b, hb⟩
    have hlt := b.isLt
    rw [← hnum, hb, hword]
    omega
  · intro hrange
    refine ⟨BitVec.ofNat 8 (n - 0x2000), BitVec.eq_of_toNat_eq ?_⟩
    rw [hnum, hword, BitVec.toNat_ofNat]
    omega

theorem mem_legalWordNumbers {n : Nat} :
    n ∈ legalWordNumbers ↔ n < 65536 ∧ (decodeCmd (BitVec.ofNat 16 n)).toBool = true := by
  have hsmall (hn : n < 65536) (k : Nat) (hk : k < 65536) : BitVec.ofNat 16 n = BitVec.ofNat 16 k ↔ n = k := by
    rw [← BitVec.toNat_inj, BitVec.toNat_ofNat, BitVec.toNat_ofNat, Nat.mod_eq_of_lt hn, Nat.mod_eq_of_lt hk]
  simp only [legalWordNumbers, Finset.mem_union, Finset.mem_Ico, Finset.mem_insert, Finset.mem_singleton]
  by_cases hn : n < 65536
  · rw [decodeCmd_toBool_iff, exists_ofNat_eq_encodedFeed hn, hsmall hn _ (by decide), hsmall hn _ (by decide),
      hsmall hn _ (by decide), hsmall hn _ (by decide), and_iff_right hn]
  · simp only [hn, false_and, iff_false]
    omega

/-- Settles O5: 256 words of `FEED` and one for each of the other four commands. -/
theorem legalCommandWordCount : Obligations.LegalCommandWordCount := by
  unfold Obligations.LegalCommandWordCount
  have hset : ((List.range 65536).filter fun n => (decodeCmd (BitVec.ofNat 16 n)).toBool).toFinset =
      legalWordNumbers := by
    ext n
    rw [List.mem_toFinset, List.mem_filter, List.mem_range, mem_legalWordNumbers]
  rw [← List.toFinset_card_of_nodup (List.nodup_range.filter _), hset, legalWordNumbers_card]

end Words

end Sys2Proof.Machine
end

section
/-! SUPPORT. Reading an assembler line (R105, R106): a line of a mnemonic, a space and an operand without spaces,
comments or quotes is split at that space, and hexadecimal digits spell back the bytes they were written for. -/

namespace Sys2Proof.Machine

/-- A text that the reader of a line takes as it stands: no space, no comment. -/
abbrev Plain (l : List Char) : Prop := ' ' ∉ l ∧ ';' ∉ l

theorem Plain.append {l l' : List Char} (hl : Plain l) (hl' : Plain l') : Plain (l ++ l') := by
  simp_all [Plain]

section Lines
variable {op arg l : List Char}

/-- Without a semicolon there is no comment to strip. -/
theorem stripComment_of_not_mem (quoted : Bool) (h : ';' ∉ l) : stripComment quoted l = l := by
  induction l generalizing quoted with
  | nil => rfl
  | cons c cs ih =>
    rw [List.mem_cons, not_or] at h
    obtain ⟨hc, hcs⟩ := h
    rw [stripComment, if_neg (fun hcond => hc hcond.1.symm), ih _ hcs]

/-- Without spaces at the front there are none to skip. -/
theorem skipSpaces_append_of_not_mem (hne : l ≠ []) (h : ' ' ∉ l) (l' : List Char) : skipSpaces (l ++ l') = l ++ l' := by
  cases l with
  | nil => cases hne rfl
  | cons c cs =>
    have hc : c ≠ ' ' := fun hc => h (hc ▸ List.mem_cons_self)
    simp [skipSpaces, hc]

theorem skipSpaces_of_not_mem (h : ' ' ∉ l) : skipSpaces l = l := by
  cases l with
  | nil => rfl
  | cons c cs => simpa using skipSpaces_append_of_not_mem (List.cons_ne_nil c cs) h []

/-- A space after the mnemonic is trimmed when no operand follows it. -/
theorem trimSpaces_line (hne : op ≠ []) (hop : ' ' ∉ op) (harg : ' ' ∉ arg) :
    trimSpaces (op ++ ' ' :: arg) = if arg = [] then op else op ++ ' ' :: arg := by
  have hrev : (op ++ ' ' :: arg).reverse = arg.reverse ++ ' ' :: op.reverse := by simp
  rw [trimSpaces, skipSpaces_append_of_not_mem hne hop, hrev]
  split
  · next hnil =>
    have hskip : skipSpaces (' ' :: op.reverse) = skipSpaces op.reverse := rfl
    rw [hnil, List.reverse_nil, List.nil_append, hskip, skipSpaces_of_not_mem (by simpa using hop), List.reverse_reverse]
  · next hnil =>
    rw [skipSpaces_append_of_not_mem (by simpa using hnil) (by simpa using harg), ← hrev, List.reverse_reverse]

/-- The mnemonic ends at the first space. -/
theorem splitLine_append (hop : ' ' ∉ op) (harg : ' ' ∉ arg) : splitLine (op ++ ' ' :: arg) = (op, arg) := by
  have hpass : ∀ c ∈ op, (c != ' ') = true := fun c hc => bne_iff_ne.mpr fun h => hop (h ▸ hc)
  have hskip : skipSpaces (' ' :: arg) = skipSpaces arg := rfl
  rw [splitLine, List.takeWhile_append_of_pos hpass, List.dropWhile_append_of_pos hpass,
    List.takeWhile_cons_of_neg (by simp), List.dropWhile_cons_of_neg (by simp), List.append_nil, hskip,
    skipSpaces_of_not_mem harg]

theorem splitLine_of_not_mem (hop : ' ' ∉ op) : splitLine op = (op, []) := by
  have hpass : ∀ c ∈ op, (c != ' ') = true := fun c hc => bne_iff_ne.mpr fun h => hop (h ▸ hc)
  have htake := List.takeWhile_append_of_pos (l₂ := []) hpass
  have hdrop := List.dropWhile_append_of_pos (l₂ := []) hpass
  rw [List.append_nil] at htake hdrop
  rw [splitLine, htake, hdrop, List.takeWhile_nil, List.dropWhile_nil, List.append_nil]
  rfl

/-- What the reader makes of a mnemonic, a space and an operand. -/
theorem splitLine_line (hne : op ≠ []) (hop : Plain op) (harg : Plain arg) :
    splitLine (trimSpaces (stripComment false (op ++ ' ' :: arg))) = (op, arg) := by
  obtain ⟨hop, hop'⟩ := hop
  obtain ⟨harg, harg'⟩ := harg
  rw [stripComment_of_not_mem false (by simp [hop', harg']), trimSpaces_line hne hop harg]
  split
  · next hnil => rw [splitLine_of_not_mem hop, hnil]
  · exact splitLine_append hop harg

section Mnemonics
variable (harg : Plain arg)
include harg

theorem parseLine_feed : parseLine ("FEED ".toList ++ arg) = (byteOperand arg).map fun b => [.feed b] := by
  change parseLine ("FEED".toList ++ ' ' :: arg) = _
  rw [parseLine, splitLine_line (by decide) ⟨by decide, by decide⟩ harg]
  rfl

theorem parseLine_cNext : parseLine ("C_NEXT ".toList ++ arg) = (blockOperand arg).map fun b => [.cNext b] := by
  change parseLine ("C_NEXT".toList ++ ' ' :: arg) = _
  rw [parseLine, splitLine_line (by decide) ⟨by decide, by decide⟩ harg]
  rfl

theorem parseLine_feedx : parseLine ("FEEDX ".toList ++ arg) = (bytesOfHex arg).map feedx := by
  change parseLine ("FEEDX".toList ++ ' ' :: arg) = _
  rw [parseLine, splitLine_line (by decide) ⟨by decide, by decide⟩ harg]
  rfl

theorem parseLine_hash : parseLine ("HASH ".toList ++ arg) = (bytesOfHex arg).map hashOps := by
  change parseLine ("HASH".toList ++ ' ' :: arg) = _
  rw [parseLine, splitLine_line (by decide) ⟨by decide, by decide⟩ harg]
  rfl

theorem parseLine_cHash : parseLine ("C_HASH ".toList ++ arg) = (bytesOfHex arg).map coreHashOps := by
  change parseLine ("C_HASH".toList ++ ' ' :: arg) = _
  rw [parseLine, splitLine_line (by decide) ⟨by decide, by decide⟩ harg]
  rfl

end Mnemonics

end Lines

section Hex
variable (b : Byte) (bs : List Byte)

theorem hexValue_hexDigit : ∀ n < 16, hexValue (hexDigit n) = some n := by decide

theorem hexDigit_plain : ∀ n < 16, Plain [hexDigit n] := by decide

theorem plain_hexOfByte : Plain (hexOfByte b) :=
  (hexDigit_plain _ (by omega)).append (hexDigit_plain _ (by omega))

theorem plain_flatMap_hexOfByte : Plain (bs.flatMap hexOfByte) := by
  induction bs with
  | nil => decide
  | cons b bs ih => exact (plain_hexOfByte b).append ih

/-- Two digits are read as the byte they spell. -/
theorem bytesOfHex_hexOfByte_append (l : List Char) :
    bytesOfHex (hexOfByte b ++ l) = (bytesOfHex l).map (b :: ·) := by
  have hhigh := hexValue_hexDigit (b.toNat / 16) (by omega)
  have hlow := hexValue_hexDigit (b.toNat % 16) (by omega)
  have hbyte : BitVec.ofNat 8 (16 * (b.toNat / 16) + b.toNat % 16) = b := by
    rw [Nat.div_add_mod, BitVec.ofNat_toNat, BitVec.setWidth_eq]
  rw [hexOfByte, List.cons_append, List.cons_append, List.nil_append, bytesOfHex, hhigh, hlow]
  cases bytesOfHex l with
  | none => rfl
  | some bs => exact congrArg (fun b => some (b :: bs)) hbyte

theorem bytesOfHex_flatMap_hexOfByte : bytesOfHex (bs.flatMap hexOfByte) = some bs := by
  induction bs with
  | nil => rfl
  | cons b bs ih => rw [List.flatMap_cons, bytesOfHex_hexOfByte_append, ih]; rfl

theorem byteOperand_hexOfByte : byteOperand ('0' :: 'x' :: hexOfByte b) = some b := by
  have hbytes : bytesOfHex (hexOfByte b) = some [b] := by
    simpa [bytesOfHex] using bytesOfHex_hexOfByte_append b []
  rw [hexOfByte] at hbytes ⊢
  simp only [byteOperand, hbytes]

/-- The digits of the block on the pins are read as the pins. -/
theorem blockOperand_hexOfBlock (pins : BlockPort) :
    blockOperand ((blockOfPort pins).toList.flatMap hexOfByte) = some pins := by
  rw [blockOperand, bytesOfHex_flatMap_hexOfByte]
  exact (if_pos Vector.length_toList).trans (congrArg some (portOfBlock_blockOfPort pins))

end Hex

/-- Settles O6: a line without operand is a closed text; the digits of `FEED` and `C_NEXT` spell back the operand. -/
theorem assemblerLineParses : Obligations.AssemblerLineParses := by
  unfold Obligations.AssemblerLineParses
  intro i
  cases i with
  | init | feed0 | final | status | cIdle | cInit => rfl
  | feed b =>
    have harg : Plain ('0' :: 'x' :: hexOfByte b) := Plain.append (l := ['0', 'x']) (by decide) (plain_hexOfByte b)
    have hline : asmLine (.feed b) = "FEED ".toList ++ '0' :: 'x' :: hexOfByte b := rfl
    rw [hline, parseLine_feed harg, byteOperand_hexOfByte]
    rfl
  | cNext pins =>
    unfold asmLine
    rw [parseLine_cNext (plain_flatMap_hexOfByte _), blockOperand_hexOfBlock]
    rfl

theorem feedx_eq (m : List Byte) : feedx m = if m = [] then [.feed0] else m.map Instr.feed := by
  cases m <;> rfl

/-- Settles O7: the digits spell back the byte string, of which each mnemonic makes its expansion. -/
theorem pseudoLinesExpand : Obligations.PseudoLinesExpand := by
  unfold Obligations.PseudoLinesExpand
  intro m
  have harg := plain_flatMap_hexOfByte m
  have hbytes := bytesOfHex_flatMap_hexOfByte m
  rw [← feedx_eq]
  refine ⟨(parseLine_feedx harg).trans ?_, (parseLine_hash harg).trans ?_, (parseLine_cHash harg).trans ?_⟩
  all_goals rw [hbytes]; rfl

end Sys2Proof.Machine
end

section
/-! SUPPORT. What the engine answers to each event of its host: the refusals of a port it does not have (R100, R101,
R222), and the one response at the end of every command (R97, R98). -/

namespace Sys2Proof.Machine

section Events
variable {s : State} {e : HostEvent} {rest : List HostEvent}

/-- A step takes the next event off the host and accepts it. -/
theorem step_event (hh : s.host = e :: rest) : step s = accept e (s.setHost rest) := by
  simp only [step, acceptNext, hh]

/-- A step on a command word without a command port (R222). -/
theorem step_cmd_refused {w : CmdWord} (hp : s.pad = none) (hh : s.host = .present (.cmd w) :: rest) :
    step s = .refused .noCommandPort := by
  simp only [step_event hh, accept, acceptCmd, State.setHost_pad, hp]

/-- A step on a core operation whose port is internal (R100). -/
theorem step_coreOp_refused {p : Pad} {code : CoreCode} {b : BlockPort} (hp : s.pad = some p)
    (hh : s.host = .present (.coreOp code b) :: rest) : step s = .refused .noCorePort := by
  simp only [step_event hh, accept, acceptCoreOp, State.setHost_pad, hp]

/-- A core operation runs in every state and takes nothing off the host (R268). -/
theorem exists_exec_of_not_isCommand (s : State) {i : Instr} (hi : i.isCommand = false) :
    ∃ t, exec i s = .next t ∧ t.host = s.host := by
  cases i with
  | init | feed | feed0 | final | status => cases hi
  | cIdle | cInit | cNext => exact ⟨_, rfl, rfl⟩

/-- Every code but the reserved one is an operation (R101). -/
theorem exists_decodeCoreOp {code : CoreCode} (b : BlockPort) (hc : code ≠ 3#2) :
    ∃ i, decodeCoreOp code b = .ok i := by
  have hcodes : ∀ c : CoreCode, c ≠ 3#2 → c = 0#2 ∨ c = 1#2 ∨ c = 2#2 := by decide
  rcases hcodes code hc with rfl | rfl | rfl <;> exact ⟨_, rfl⟩

end Events

/-- Settles O10: the code has no operation, so the step has no transition. -/
theorem reservedCoreCodeIsRefused : Obligations.ReservedCoreCodeIsRefused := by
  unfold Obligations.ReservedCoreCodeIsRefused
  intro s b rest hp hh
  have hd : decodeCoreOp 0b11#2 b = .error .reservedCoreOp := rfl
  simp only [step_event hh, accept, acceptCoreOp, State.setHost_pad, hp, hd]

/-- Settles O11: each command asks for a PAD before anything else, and so does the port itself. -/
theorem missingPortIsRefused : Obligations.MissingPortIsRefused := by
  unfold Obligations.MissingPortIsRefused
  refine ⟨fun s i hp hi => ?_, fun _ _ _ hp hh => step_cmd_refused hp hh, fun _ _ _ _ _ hp hh =>
    step_coreOp_refused hp hh⟩
  cases i with
  | init | feed | feed0 | final | status => exact State.onPad_none _ hp
  | cIdle | cInit | cNext => cases hi

section Responses
variable {s t : State} {p : Pad} {i : Instr}

/-- No command touches what the host will present. -/
theorem CommandEffect.host_eq (he : CommandEffect s p i t) : t.host = s.host := by
  cases he with
  | feed | finalFirst => simp
  | init | feedRefused | feed0 | feed0Refused | finalLater | status => rfl

theorem digestPort_eq_bytesPort (h : HashState) : digestPort h = bytesPort (digest h) := rfl

/-- What a response to the command `i` carries, after which the state is `t` (R98). -/
def ResponseTo (p : Pad) (i : Instr) (t : State) (r : Response) : Prop :=
  (r.code ≠ .ok → r.data = 0) ∧
  (i = .final → r.code = .ok ∧ r.data = bytesPort (digest t.h)) ∧
  (i = .status → r.code = .ok ∧ r.data = (statusWord p).setWidth 256) ∧
  (i ≠ .final → i ≠ .status → r.data = 0) ∧
  (∀ b : Byte, i = .feed b → p.phase ≠ .finalized → r.code = .ok)

/-- A command ends with its response. -/
theorem CommandEffect.exists_response (he : CommandEffect s p i t) :
    ∃ r, t.response = some r ∧ ResponseTo p i t r := by
  cases he with
  | init => exact ⟨_, rfl, by simp [ResponseTo]⟩
  | feed => exact ⟨_, rfl, by simp [ResponseTo]⟩
  | feedRefused b hf => exact ⟨_, rfl, by simp [ResponseTo, hf]⟩
  | feed0 => exact ⟨_, rfl, by simp [ResponseTo]⟩
  | feed0Refused => exact ⟨_, rfl, by simp [ResponseTo]⟩
  | finalFirst => exact ⟨_, rfl, by simp [ResponseTo, digestPort_eq_bytesPort]⟩
  | finalLater => exact ⟨_, rfl, by simp [ResponseTo, digestPort_eq_bytesPort]⟩
  | status => exact ⟨_, rfl, by simp [ResponseTo]⟩

end Responses

section CommandSteps
variable {s : State} {p : Pad} {w : CmdWord} {rest : List HostEvent} (hp : s.pad = some p)
  (hh : s.host = .present (.cmd w) :: rest)
include hp hh

/-- What a step on a command word can do: the effect of the command, or the error of an illegal word. -/
theorem step_cmd_cases :
    (∃ i t, decodeCmd w = .ok i ∧ step s = .next t ∧ CommandEffect (s.setHost rest) p i t) ∨
    (∃ e, decodeCmd w = .error e ∧ step s = .next ((s.setHost rest).raise .illegalCommand p)) := by
  cases hd : decodeCmd w with
  | error e => exact .inr ⟨e, rfl, step_illegal hp hh hd⟩
  | ok i =>
    obtain ⟨t, ht⟩ := CommandEffect.exists_of_isCommand (s.setHost rest) p (decodeCmd_isCommand hd)
    exact .inl ⟨i, t, rfl, (step_command hp hh hd).trans (ht.exec_eq hp), ht⟩

/-- A step on any command word completes, takes the word off the host, and responds. -/
theorem exists_step_cmd : ∃ t r, step s = .next t ∧ t.host = rest ∧ t.response = some r := by
  rcases step_cmd_cases hp hh with ⟨i, t, -, hst, he⟩ | ⟨e, -, hst⟩
  · obtain ⟨r, hr, -⟩ := he.exists_response
    exact ⟨t, r, hst, he.host_eq, hr⟩
  · exact ⟨_, _, hst, rfl, rfl⟩

end CommandSteps

/-- A step on a core operation of `CFG_CORE` completes and takes the operation off the host. -/
theorem exists_step_coreOp {s : State} {code : CoreCode} {b : BlockPort} {rest : List HostEvent} (hp : s.pad = none)
    (hh : s.host = .present (.coreOp code b) :: rest) (hc : code ≠ 3#2) : ∃ t, step s = .next t ∧ t.host = rest := by
  obtain ⟨i, hd⟩ := exists_decodeCoreOp b hc
  rw [step_coreOp hp hh hd]
  exact exists_exec_of_not_isCommand (s.setHost rest) (decodeCoreOp_not_isCommand hd)

/-- Settles O12, by the kinds of event; the configuration says which port there is. -/
theorem everyLegalEventCompletes : Obligations.EveryLegalEventCompletes := by
  unfold Obligations.EveryLegalEventCompletes
  intro s hwf
  cases hh : s.host with
  | nil => exact ⟨_, step_idle hh, hh⟩
  | cons e rest =>
    have he : e.wf s.config = true := hwf e (by rw [hh]; rfl)
    cases e with
    | rst => exact ⟨_, step_rst hh, rfl⟩
    | present port =>
      cases port with
      | cmd w =>
        cases hp : s.pad with
        | none => rw [State.config_of_pad_none hp] at he; cases he
        | some p =>
          obtain ⟨t, -, hst, hrest, -⟩ := exists_step_cmd hp hh
          exact ⟨t, hst, hrest⟩
      | coreOp code b =>
        cases hp : s.pad with
        | none =>
          rw [State.config_of_pad_none hp] at he
          exact exists_step_coreOp hp hh (by simpa [HostEvent.wf, PortWord.wf, Configuration.hasPadder] using he)
        | some p => rw [State.config_of_pad_some hp] at he; cases he

/-- Settles O13: a command word is answered, and waiting and `rst` clear the response port. -/
theorem oneResponsePerCommand : Obligations.OneResponsePerCommand := by
  unfold Obligations.OneResponsePerCommand
  refine ⟨fun s p w rest hp hh => ?_, fun s t hh hst => ?_, fun s t rest hh hst => ?_⟩
  · obtain ⟨t, r, hst, hrest, hr⟩ := exists_step_cmd hp hh
    have hfull : t.config = .full := (stepKeepsConfiguration s t hst).trans (State.config_of_pad_some hp)
    exact ⟨t, hst, by rw [State.rspValid, hr]; rfl, by rw [State.cmdReady, hfull]; rfl, hrest⟩
  · rw [step_idle hh] at hst
    cases hst
    rw [State.rspValid, State.response, State.idle_pad]
    cases s.pad <;> rfl
  · rw [step_rst hh] at hst
    cases hst
    exact State.applyReset_rspValid _

/-- The status word on `rsp_data` (R98): its own bits below and zeros above. -/
theorem extractLsb'_low_setWidth (x : BitVec 16) : (x.setWidth 256).extractLsb' 0 16 = x := by
  rw [BitVec.extractLsb'_setWidth_of_le (by decide), BitVec.extractLsb'_eq_self]

theorem extractLsb'_high_setWidth (x : BitVec 16) : (x.setWidth 256).extractLsb' 16 240 = 0 := by
  have hx := x.isLt
  refine extractLsb'_eq_of_toNat _ _ _ _ ?_
  rw [BitVec.toNat_setWidth_of_le (by decide), Nat.div_eq_of_lt hx]
  rfl

/-- Settles O14, by what each command responds; an illegal word is no command and responds 0. -/
theorem responseDataByCommand : Obligations.ResponseDataByCommand := by
  unfold Obligations.ResponseDataByCommand
  intro s t p w rest hp hh hst
  rcases step_cmd_cases hp hh with ⟨i, t', hd, hst', he⟩ | ⟨e, hd, hst'⟩ <;> cases hst.symm.trans hst'
  · obtain ⟨r, hr, herr, hfinal, hstatus, hother, hfeed⟩ := he.exists_response
    simp only [hd, ne_eq, Except.ok.injEq]
    refine ⟨r, hr, herr, hfinal, fun h => ?_, hother, hfeed⟩
    obtain ⟨hcode, hdata⟩ := hstatus h
    rw [hdata]
    exact ⟨hcode, extractLsb'_low_setWidth _, extractLsb'_high_setWidth _⟩
  · exact ⟨_, rfl, by simp [hd]⟩

end Sys2Proof.Machine
end

section
/-! SUPPORT. The tail that `FINAL` compresses completes the padding of the message (R140 to R145). -/

namespace Sys2Proof.Machine

theorem zeroFill_mod (n : Nat) : zeroFill (n % 64) = zeroFill n := by
  unfold zeroFill
  omega

/-- The tail holds the pending bytes, the marker, the fill and the length field (R144). -/
theorem tailLength_eq {r : Nat} (hr : r ≤ 63) : tailLength r = r + 1 + zeroFill r + 8 := by
  unfold tailLength zeroFill
  split <;> omega

section Tail
variable (buf : Vector Byte 64) {r : Nat} (cnt : BitVec 64)

theorem tailByte_pending {j : Nat} (hj : j < r) : tailByte buf r cnt j = buf.getD j 0 := if_pos hj

theorem tailByte_marker : tailByte buf r cnt r = padMarker := by
  simp [tailByte]

theorem tailByte_fill (hr : r ≤ 63) {j : Nat} (hj : j < zeroFill r) : tailByte buf r cnt (r + 1 + j) = 0 := by
  have hlen := tailLength_eq hr
  rw [tailByte, if_neg (by omega), if_neg (by omega), if_pos (by omega)]

theorem tailByte_count (hr : r ≤ 63) (j : Nat) :
    tailByte buf r cnt (r + 1 + zeroFill r + j) = be64Byte cnt j := by
  have hlen := tailLength_eq hr
  have hpos : r + 1 + zeroFill r + j - (tailLength r - 8) = j := by omega
  rw [tailByte, if_neg (by omega), if_neg (by omega), if_neg (by omega), hpos]

/-- The tail as a concatenation, segment by segment (R144). -/
theorem tail_eq_append (hr : r ≤ 63) :
    tail buf r cnt = buf.toList.take r ++ [padMarker] ++ List.replicate (zeroFill r) 0 ++ be64Bytes cnt := by
  have hpending : (List.range r).map (tailByte buf r cnt) = buf.toList.take r := by
    refine List.ext_getElem (by simp; omega) fun j hj hj' => ?_
    have hjr : j < r := by simpa using hj
    simp [tailByte_pending buf cnt hjr, Vector.getD, show j < 64 by omega]
  have hfill : (List.range (zeroFill r)).map (fun j => tailByte buf r cnt (r + 1 + j)) =
      List.replicate (zeroFill r) 0 := by
    rw [List.map_congr_left fun j hj => tailByte_fill buf cnt hr (List.mem_range.mp hj), List.map_const',
      List.length_range]
  rw [tail, tailLength_eq hr, List.range_add, List.range_add, List.range_add]
  simp only [List.map_append, List.map_map, Function.comp_def, hpending, hfill, tailByte_count buf cnt hr]
  rw [List.range_one, List.map_singleton, Nat.add_zero, tailByte_marker, be64Bytes]

/-- The blocks of the tail, as `FINAL` reads them off PAD (R213). -/
theorem blockAt_tail {k : Nat} (hk : 64 * (k + 1) ≤ tailLength r) :
    blockAt (tail buf r cnt) k = tailBlock buf r cnt k := by
  unfold blockAt tailBlock
  congr 1
  funext j
  have hj : 64 * k + j.val < tailLength r := by omega
  simp [tail, List.getD_eq_getElem?_getD, hj]

end Tail

/-- What the first `FINAL` does to `H` is the fold over the tail (R213). -/
theorem State.finalCore_h_eq_foldBlocks (p : Pad) (s : State) :
    (s.finalCore p).h = foldBlocks s.h (tail p.buf p.bufLen.val p.bitCnt) := by
  have hblock {k : Nat} (hk : 64 * (k + 1) ≤ tailLength p.bufLen.val) :
      blockAt (tail p.buf p.bufLen.val p.bitCnt) k = p.tailBlock k := blockAt_tail p.buf p.bitCnt hk
  rw [State.finalCore_h, foldBlocks, blocksOf, tail_length]
  split
  · next h56 =>
    have hlen : tailLength p.bufLen.val = 128 := if_neg (by omega)
    simp [hlen, List.range_succ, hblock]
  · next h56 =>
    have hlen : tailLength p.bufLen.val = 64 := if_pos (by omega)
    simp [hlen, List.range_succ, hblock]

/-- The padded message is the whole blocks of the message and the tail of the rest (R145), under the fold. -/
theorem foldBlocks_padMessage (h : HashState) (m : List Byte) {buf : Vector Byte 64}
    (hbuf : buf.toList.take (m.length % 64) = m.drop (64 * (m.length / 64))) :
    foldBlocks h (padMessage m) =
      foldBlocks (foldBlocks h m) (tail buf (m.length % 64) (BitVec.ofNat 64 (8 * m.length))) := by
  rw [tail_eq_append buf _ (by omega), zeroFill_mod, hbuf, padMessage, lengthField]
  simp only [List.append_assoc]
  exact foldBlocks_append_rest h m _

/-- The digest law of R218: the first `FINAL` after the message `m` leaves the digest of `m` in `H`. -/
theorem Accumulates.digest_finalCore {m : List Byte} {s : State} {p : Pad} (hm : Accumulates m s) (hp : s.pad = some p) :
    digest (s.finalCore p).h = sha256de m := by
  obtain ⟨p', hp', -, -, hh, hlen, hpend, hcnt⟩ := hm
  obtain rfl : p = p' := Option.some_inj.mp (hp.symm.trans hp')
  rw [Pad.pending, hlen] at hpend
  rw [sha256de, foldBlocks_padMessage iv m hpend, State.finalCore_h_eq_foldBlocks, hh, hlen, hcnt]

end Sys2Proof.Machine
end

section
/-! SUPPORT. Runs of an engine whose host issues operations (R105), and the source's feed of a chunk as such a run
(R94, R215). -/

namespace Sys2Proof.Machine

section Runs
variable {M : Host.Core} {s t : M.State}

theorem run_succ (k : Nat) (hst : M.step s = .next t) : M.run (k + 1) s = M.run k t := by
  simp only [Host.Core.run, hst]

/-- A run goes on from where its first steps ended. -/
theorem run_add (j k : Nat) (hrun : M.run j s = .next t) : M.run (j + k) s = M.run k t := by
  induction j generalizing s with
  | zero => cases hrun; rw [Nat.zero_add]
  | succ j ih =>
    rw [Nat.add_right_comm]
    cases hst : M.step s with
    | next u => rw [run_succ _ hst] at hrun ⊢; exact ih hrun
    | fault r => simp only [Host.Core.run, hst] at hrun; cases hrun
    | refused r => simp only [Host.Core.run, hst] at hrun; cases hrun

theorem run_one (hst : M.step s = .next t) : M.run 1 s = .next t := run_succ 0 hst

end Runs

theorem issue_append (is js : List Instr) : issue (is ++ js) = issue is ++ issue js := List.map_append

/-- What the `FEED` commands of the chunk `c` make of the engine `s` with the PAD `p`: the engine `t` with the PAD `q`
(R215). -/
structure ChunkFed (c : List Byte) (s : State) (p : Pad) (t : State) (q : Pad) : Prop where
  view : t.feedView q = feedChunk c (s.feedView p)
  phase : q.phase = .accumulating
  ovf : q.ovf = (p.ovf || decide (2 ^ 64 ≤ p.bitCnt.toNat + 8 * c.length))

section Chunks
variable {c d : List Byte} {s t u : State} {p q r : Pad} {rest : List HostEvent}

/-- The source's feed of two chunks, one after the other. -/
theorem feedChunk_append (c d : List Byte) (v : FeedView) : feedChunk (c ++ d) v = feedChunk d (feedChunk c v) := by
  have hcut : 64 * ((v.pending ++ c).length / 64) ≤ (v.pending ++ c).length := Nat.mul_div_le _ _
  unfold feedChunk
  simp only [FeedView.mk.injEq, ← List.append_assoc]
  refine ⟨foldBlocks_append_rest .., ?_, ?_⟩
  · rw [← List.drop_append_of_le_length hcut, List.drop_drop, List.length_drop]
    congr 1
    rw [List.length_append (as := v.pending ++ c)]
    omega
  · rw [List.length_append, Nat.mul_add, BitVec.ofNat_add, BitVec.add_assoc]

theorem feedChunk_nil {v : FeedView} (hv : v.pending.length < 64) : feedChunk [] v = v := by
  simp [feedChunk, foldBlocks_of_length_lt _ hv, Nat.div_eq_of_lt hv]

theorem ChunkFed.trans (hc : ChunkFed c s p t q) (hd : ChunkFed d t q u r) : ChunkFed (c ++ d) s p u r where
  view := by rw [hd.view, hc.view, feedChunk_append]
  phase := hd.phase
  ovf := by
    have hcnt : q.bitCnt = p.bitCnt + BitVec.ofNat 64 (8 * c.length) := congrArg FeedView.bitCnt hc.view
    have hsum : (2 ^ 64 ≤ p.bitCnt.toNat + 8 * c.length ∨ 2 ^ 64 ≤ q.bitCnt.toNat + 8 * d.length) ↔
        2 ^ 64 ≤ p.bitCnt.toNat + 8 * (c ++ d).length := by
      rw [hcnt, BitVec.toNat_add, BitVec.toNat_ofNat, List.length_append]
      omega
    rw [hd.ovf, hc.ovf, ← decide_eq_decide.mpr hsum, Bool.decide_or, Bool.or_assoc]

/-- What the host will present is no part of what the source's feed acts on. -/
theorem ChunkFed.of_setHost {l : List HostEvent} (hc : ChunkFed c (s.setHost l) p t q) : ChunkFed c s p t q :=
  ⟨hc.view, hc.phase, hc.ovf⟩

/-- `FEED0` is the source's feed of the empty chunk (R212). -/
theorem chunkFed_feed0 (s : State) (p : Pad) :
    let q := (p.setPhase .accumulating).respond .ok 0
    ChunkFed [] s p (s.setPad q) q where
  view := (feedChunk_nil (v := s.feedView p) (p.pending_length.trans_lt p.bufLen.isLt)).symm
  phase := rfl
  ovf := by
    have hsum : ¬ 2 ^ 64 ≤ p.bitCnt.toNat + 8 * ([] : List Byte).length := Nat.not_le.mpr p.bitCnt.isLt
    rw [decide_eq_false hsum, Bool.or_false]
    rfl

/-- The byte of an accepted `FEED` makes up the block that it compresses (R211). -/
theorem State.feedCore_h_eq_foldBlocks (b : Byte) (p : Pad) (s : State) :
    (s.feedCore b p).h = foldBlocks s.h (p.pending ++ [b]) := by
  have hlt := p.bufLen.isLt
  rw [State.feedCore_h]
  split
  · next h63 => rw [← Pad.toList_storeByte b h63, foldBlocks_block]
  · next h63 => rw [foldBlocks_of_length_lt _ (by simp; omega)]

/-- The bytes that an accepted `FEED` leaves pending are those in no whole block. -/
theorem Pad.pending_feedByte_eq_drop (b : Byte) (p : Pad) :
    (p.feedByte b).pending = (p.pending ++ [b]).drop (64 * ((p.pending ++ [b]).length / 64)) := by
  have hlt := p.bufLen.isLt
  have hlen : (p.pending ++ [b]).length = p.bufLen.val + 1 := by simp
  rw [Pad.pending_feedByte, hlen]
  split
  · next h63 => rw [List.drop_of_length_le (by omega)]
  · next h63 => rw [Nat.div_eq_of_lt (by omega), Nat.mul_zero, List.drop_zero]

/-- An accepted `FEED` is the source's feed of one byte (R211). -/
theorem chunkFed_feed {h : HashState} (hinv : PadInv h p) (b : Byte) (s : State) :
    let q := (p.feedByte b).respond .ok 0
    ChunkFed [b] s p ((s.feedCore b p).setPad q) q where
  view := by
    rw [State.feedView, feedChunk, FeedView.mk.injEq]
    exact ⟨State.feedCore_h_eq_foldBlocks b p s, Pad.pending_feedByte_eq_drop b p, Pad.feedByte_bitCnt b p⟩
  phase := Pad.feedByte_phase b p
  ovf := by
    obtain ⟨-, hbytes, -⟩ := hinv
    have hlt := p.bitCnt.isLt
    have hwrap : countWraps p.bitCnt = decide (2 ^ 64 ≤ p.bitCnt.toNat + 8 * [b].length) := by
      rw [Bool.eq_iff_iff, countWraps_iff, decide_eq_true_iff, List.length_singleton]
      omega
    rw [← hwrap]
    exact Pad.feedByte_ovf b p

/-- A step on a `FEED` outside `Finalized`. -/
theorem exists_step_feed {b : Byte} (hinv : s.Inv) (hp : s.pad = some p) (hf : p.phase ≠ .finalized)
    (hh : s.host = .present (encode (.feed b)) :: rest) :
    ∃ t q, step s = .next t ∧ t.host = rest ∧ t.Inv ∧ t.pad = some q ∧ ChunkFed [b] s p t q := by
  have hst := (step_encoded hp rfl hh).trans (exec_feed_accepted (s := s.setHost rest) hp b hf)
  exact ⟨_, _, hst, State.feedCore_host .., stepKeepsInvariant s _ hinv hst, rfl,
    (chunkFed_feed ((State.inv_iff_of_pad_some hp).mp hinv) b (s.setHost rest)).of_setHost⟩

/-- The steps on a non-empty chunk, byte by byte. -/
theorem exists_run_feeds (b : Byte) (c : List Byte) {s : State} {p : Pad} (hinv : s.Inv) (hp : s.pad = some p)
    (hf : p.phase ≠ .finalized) (hh : s.host = issue ((b :: c).map Instr.feed) ++ rest) :
    ∃ t q, core.run (b :: c).length s = .next t ∧ t.host = rest ∧ t.pad = some q ∧ ChunkFed (b :: c) s p t q := by
  induction c generalizing b s p with
  | nil =>
    obtain ⟨t, q, hst, hrest, -, hq, hfed⟩ := exists_step_feed hinv hp hf hh
    exact ⟨t, q, run_one hst, hrest, hq, hfed⟩
  | cons b' c ih =>
    obtain ⟨t, q, hst, hrest, hinv', hq, hfed⟩ := exists_step_feed hinv hp hf hh
    have hf' : q.phase ≠ .finalized := by rw [hfed.phase]; decide
    obtain ⟨u, r, hrun, hu, hr, hfed'⟩ := ih b' hinv' hq hf' hrest
    exact ⟨u, r, (run_succ _ hst).trans hrun, hu, hr, hfed.trans hfed'⟩

/-- The steps on the `FEED` commands of any chunk (R94). -/
theorem exists_run_feedx (c : List Byte) (hinv : s.Inv) (hp : s.pad = some p) (hf : p.phase ≠ .finalized)
    (hh : s.host = issue (feedx c) ++ rest) :
    ∃ t q, core.run (feedx c).length s = .next t ∧ t.host = rest ∧ t.pad = some q ∧ ChunkFed c s p t q := by
  cases c with
  | nil =>
    have hst := (step_encoded hp rfl hh).trans (exec_feed0_accepted (s := s.setHost rest) hp hf)
    exact ⟨_, _, run_one hst, rfl, rfl, (chunkFed_feed0 (s.setHost rest) p).of_setHost⟩
  | cons b c =>
    have hlen : (feedx (b :: c)).length = (b :: c).length := by simp [feedx]
    rw [hlen]
    exact exists_run_feeds b c hinv hp hf hh

end Chunks

/-- Settles O44, from the run of a chunk byte by byte. -/
theorem chunkLaw : Obligations.ChunkLaw := by
  unfold Obligations.ChunkLaw
  intro c s p rest hinv hp hf hh
  obtain ⟨t, q, hrun, hrest, hq, hview, hphase, hovf⟩ := exists_run_feedx c hinv hp hf hh
  exact ⟨t, q, hrun, hrest, hq, hview, hphase, hovf⟩

end Sys2Proof.Machine
end

section
/-! SUPPORT. The runs of `HASH` and `C_HASH` (R106, R218), and a chunk after `FINAL` (R215, R252). -/

namespace Sys2Proof.Machine

section Refused
variable {s : State} {p : Pad} {i : Instr} {is : List Instr} {rest : List HostEvent}

/-- The two commands that feed (R211, R212). -/
def IsFeed (i : Instr) : Prop := i = .feed0 ∨ ∃ b, i = .feed b

theorem isFeed_of_mem_feedx {c : List Byte} (hi : i ∈ feedx c) : IsFeed i := by
  rw [feedx_eq] at hi
  split at hi
  · exact .inl (List.mem_singleton.mp hi)
  · obtain ⟨b, -, rfl⟩ := List.mem_map.mp hi
    exact .inr ⟨b, rfl⟩

/-- A step on a feeding command in `Finalized` (R252). -/
theorem step_feed_refused (hi : IsFeed i) (hp : s.pad = some p) (hf : p.phase = .finalized)
    (hh : s.host = .present (encode i) :: rest) : step s = .next ((s.setHost rest).raise .useAfterFinalize p) := by
  rcases hi with rfl | ⟨b, rfl⟩
  · exact (step_encoded hp rfl hh).trans (exec_feed0_refused (s := s.setHost rest) hp hf)
  · exact (step_encoded hp rfl hh).trans (exec_feed_refused (s := s.setHost rest) hp b hf)

/-- Feeding commands in `Finalized`, at least one, raise `UseAfterFinalize` as one does: raising it again changes
nothing. -/
theorem run_feeds_refused (his : ∀ j ∈ i :: is, IsFeed j) (hp : s.pad = some p) (hf : p.phase = .finalized)
    (hh : s.host = issue (i :: is) ++ rest) :
    core.run (i :: is).length s = .next ((s.setHost rest).raise .useAfterFinalize p) := by
  induction is generalizing i s p with
  | nil => exact run_one (step_feed_refused (his i List.mem_cons_self) hp hf hh)
  | cons j is ih =>
    obtain ⟨hi, his'⟩ := List.forall_mem_cons.mp his
    have hst := step_feed_refused hi hp hf hh
    rw [List.length_cons, run_succ (M := core) _ hst]
    exact ih (p := p.raise .useAfterFinalize) his' (State.raise_pad ..) hf rfl

end Refused

/-- Settles O45: every command of the chunk is refused, and the first refusal leaves nothing for the others. -/
theorem chunkAfterFinalOnlySetsFlag : Obligations.ChunkAfterFinalOnlySetsFlag := by
  unfold Obligations.ChunkAfterFinalOnlySetsFlag
  intro c s p rest hp hf hh
  have his : ∀ i ∈ feedx c, IsFeed i := fun i => isFeed_of_mem_feedx
  have hne : feedx c ≠ [] := by cases c <;> simp [feedx]
  obtain ⟨i, is, hcons⟩ := List.exists_cons_of_ne_nil hne
  rw [hcons] at his hh ⊢
  exact run_feeds_refused his hp hf hh

section Hash
variable {m : List Byte} {s t : State} {p q : Pad} {rest : List HostEvent}

/-- A chunk fed to a new engine is the message it has accumulated (R217). -/
theorem ChunkFed.accumulates (hfed : ChunkFed m s p t q) (hnew : s.feedView p = ⟨iv, [], 0⟩) (hq : t.pad = some q) :
    Accumulates m t := by
  have hview : t.feedView q = feedChunk m ⟨iv, [], 0⟩ := hnew ▸ hfed.view
  have hpend : q.pending = m.drop (64 * (m.length / 64)) := congrArg FeedView.pending hview
  have hcnt : q.bitCnt = 0 + BitVec.ofNat 64 (8 * m.length) := congrArg FeedView.bitCnt hview
  refine ⟨q, hq, by simp [hfed.phase], by simp [hfed.phase], congrArg FeedView.h hview, ?_, hpend, ?_⟩
  · rw [← Pad.pending_length, hpend, List.length_drop]
    omega
  · exact hcnt.trans (BitVec.zero_add _)

/-- The first `FINAL` after the message `m`, as a step (R213, R218). -/
theorem Accumulates.exists_step_final (hm : Accumulates m s) (hh : s.host = .present (encode .final) :: rest) :
    ∃ t q, step s = .next t ∧ t.host = rest ∧ t.pad = some q ∧ q.phase = .finalized ∧
      q.rsp = some ⟨.ok, bytesPort (sha256de m)⟩ := by
  have ⟨p, hp, hf, _⟩ := hm
  have hst := (step_encoded hp rfl hh).trans (exec_final_first (s := s.setHost rest) hp hf)
  refine ⟨_, _, hst, State.finalCore_host .., rfl, rfl, ?_⟩
  rw [Pad.respond_rsp, digestPort_eq_bytesPort, (hm.setHost rest).digest_finalCore hp]

/-- `INIT` makes an engine that has been fed nothing (R210). -/
theorem exists_step_init (hp : s.pad = some p) (hh : s.host = .present (encode .init) :: rest) :
    ∃ t q, step s = .next t ∧ t.host = rest ∧ t.pad = some q ∧ t.Inv ∧ q.phase ≠ .finalized ∧
      t.feedView q = ⟨iv, [], 0⟩ := by
  have hst := (step_encoded hp rfl hh).trans (exec_init (s := s.setHost rest) hp)
  exact ⟨_, _, hst, rfl, rfl, State.inv_setPad.mpr ((padInv_respond ..).mpr padInv_clear), by simp, rfl⟩

end Hash

/-- Settles O42: `INIT`, the run of the message, and `FINAL`. -/
theorem hashReturnsDigest : Obligations.HashReturnsDigest := by
  unfold Obligations.HashReturnsDigest
  intro m s p rest hp hh
  have hlen : (hashOps m).length = (feedx m).length + 1 + 1 := by simp [hashOps]
  have hissue : s.host = .present (encode .init) :: (issue (feedx m) ++ (.present (encode .final) :: rest)) := by
    rw [hh, hashOps, issue_append, issue_append]
    simp [issue]
  obtain ⟨t₀, q₀, hst₀, hh₀, hq₀, hinv₀, hf₀, hnew⟩ := exists_step_init hp hissue
  obtain ⟨t₁, q₁, hrun₁, hh₁, hq₁, hfed⟩ := exists_run_feedx m hinv₀ hq₀ hf₀ hh₀
  obtain ⟨t, q, hst, hrest, hq, hf, hrsp⟩ := (hfed.accumulates hnew hq₁).exists_step_final hh₁
  have hrun : core.run (hashOps m).length s = .next t := by
    rw [hlen]
    exact (run_succ _ hst₀).trans ((run_add _ 1 hrun₁).trans (run_one hst))
  exact ⟨t, q, hrun, hrest, hq, hf, hrsp⟩

section CoreHash
variable {s : State} {rest : List HostEvent}

/-- The host of `CFG_CORE` sees `H` (R103). -/
theorem State.cState_of_pad_none (hp : s.pad = none) : s.cState = some (hashPort s.h) := by
  simp only [State.cState, State.config_of_pad_none hp, State.coreState]

/-- A step on `C_NEXT` with a block laid on the pins (R192). -/
theorem step_cNext {b : Block} (hp : s.pad = none) (hh : s.host = .present (encode (.cNext (portOfBlock b))) :: rest) :
    step s = .next ((s.setHost rest).coreNext b) := by
  rw [step_coreOp hp hh (i := .cNext (portOfBlock b)) rfl, exec, execCNext, blockOfPort_portOfBlock]

/-- A step on `C_INIT` (R191). -/
theorem exists_step_cInit (hp : s.pad = none) (hh : s.host = .present (encode .cInit) :: rest) :
    ∃ t, step s = .next t ∧ t.host = rest ∧ t.pad = none ∧ t.h = iv :=
  ⟨_, step_coreOp hp hh (i := .cInit) rfl, rfl, hp, rfl⟩

/-- One `C_NEXT` a block folds the compression over the blocks. -/
theorem run_cNexts (bs : List Block) (hp : s.pad = none)
    (hh : s.host = issue (bs.map fun b => .cNext (portOfBlock b)) ++ rest) :
    core.run bs.length s = .next ((s.setH (bs.foldl compress s.h)).setHost rest) := by
  induction bs generalizing s with
  | nil => exact congrArg (fun l => Host.Outcome.next (s.setHost l)) hh
  | cons b bs ih =>
    have hst := step_cNext hp hh
    rw [List.length_cons, run_succ (M := core) _ hst]
    exact ih hp rfl

end CoreHash

/-- Settles O43: `C_INIT` starts from `IV`, and the blocks of the padded message are folded in order. -/
theorem coreHashReturnsDigest : Obligations.CoreHashReturnsDigest := by
  unfold Obligations.CoreHashReturnsDigest
  intro m s rest hp hh
  have hlen : (coreHashOps m).length = (blocksOf (padMessage m)).length + 1 := by simp [coreHashOps]
  obtain ⟨t, hst, hh', hp', hiv⟩ := exists_step_cInit hp hh
  have hrun := run_cNexts (blocksOf (padMessage m)) hp' hh'
  rw [hiv] at hrun
  refine ⟨_, hlen ▸ (run_succ _ hst).trans hrun, rfl, ?_⟩
  have hstate := State.cState_of_pad_none (s := (t.setH (foldBlocks iv (padMessage m))).setHost rest) hp'
  exact hstate.trans (congrArg some (hashPort_eq_bytesPort_digest _))

end Sys2Proof.Machine
end

section
/-! SUPPORT. The word primitives: addition as the sum in `BitVec 32` (R120), `rotr32` as the library's rotation (R121),
and the inverses between a word and its bytes (R126, R127). -/

namespace Sys2Proof.Machine

section Addition
variable {xs ys : List Word}

/-- The fold of `add32` is the sum in the ring of words. -/
theorem add32_eq_sum (xs : List Word) : add32 xs = xs.sum := List.sum_eq_foldl.symm

/-- Reducing modulo `2^32` after every addition is reducing once at the end (R120). -/
theorem toNat_add32 (xs : List Word) : (add32 xs).toNat = (xs.map BitVec.toNat).sum % 2 ^ 32 := by
  rw [add32_eq_sum]
  induction xs with
  | nil => rfl
  | cons x xs ih => rw [List.sum_cons, BitVec.toNat_add, ih, Nat.add_mod_mod, List.map_cons, List.sum_cons]

theorem add32_perm (h : xs.Perm ys) : add32 xs = add32 ys := by
  rw [add32_eq_sum, add32_eq_sum, h.sum_eq]

end Addition

section Rotation
variable (x : Word) {n : Nat}

theorem toNat_rotr32 (n : Nat) : (rotr32 x n).toNat = (x.toNat / 2 ^ n + x.toNat * 2 ^ (32 - n)) % 2 ^ 32 := by
  rw [rotr32, BitVec.toNat_add, BitVec.toNat_ushiftRight, BitVec.toNat_shiftLeft, Nat.shiftRight_eq_div_pow,
    Nat.shiftLeft_eq, Nat.add_mod_mod]

/-- The bits that stay and the bits that come back at the top do not overlap. -/
theorem ushiftRight_and_shiftLeft_eq_zero (hn : n ≤ 32) : x >>> n &&& x <<< (32 - n) = 0#32 := by
  refine BitVec.eq_of_getLsbD_eq fun i hi => ?_
  rw [BitVec.getLsbD_and, BitVec.getLsbD_ushiftRight, BitVec.getLsbD_shiftLeft, BitVec.getLsbD_zero]
  by_cases hlow : i < 32 - n
  · simp [hlow]
  · simp [BitVec.getLsbD_of_ge x (n + i) (by omega)]

/-- With no overlap the sum of the two shifts has no carry, and is the rotation. -/
theorem rotr32_eq_rotateRight (hn : n < 32) : rotr32 x n = x.rotateRight n := by
  rw [rotr32, BitVec.add_eq_or_of_and_eq_zero _ _ (ushiftRight_and_shiftLeft_eq_zero x hn.le), BitVec.rotateRight_def,
    Nat.mod_eq_of_lt hn]

/-- Bit `i` comes from bit `i + n`, or around the end from bit `i + n - 32` (R121). -/
theorem getLsbD_rotr32 (hn : n < 32) {i : Nat} (hi : i < 32) :
    (rotr32 x n).getLsbD i = x.getLsbD ((i + n) % 32) := by
  rw [rotr32_eq_rotateRight x hn, BitVec.getLsbD_rotateRight, Nat.mod_eq_of_lt hn]
  by_cases hlow : i < 32 - n
  · have hpos : (i + n) % 32 = n + i := by omega
    simp [hlow, hpos]
  · have hpos : (i + n) % 32 = i - (32 - n) := by omega
    simp [hlow, hi, hpos]

end Rotation

section Bytes
variable (b0 b1 b2 b3 : Byte)

/-- Each byte is a field of the concatenation, with the later bytes below it (R127). -/
theorem be32Bytes_be32 : be32Bytes (be32 b0 b1 b2 b3) = [b0, b1, b2, b3] := by
  have h0 : (b0 ++ b1 ++ b2 ++ b3).extractLsb' 24 8 = b0 := by
    rw [BitVec.extractLsb'_append_eq_of_le (by decide), BitVec.extractLsb'_append_eq_of_le (by decide),
      BitVec.extractLsb'_append_eq_left]
  have h1 : (b0 ++ b1 ++ b2 ++ b3).extractLsb' 16 8 = b1 := by
    rw [BitVec.extractLsb'_append_eq_of_le (by decide), BitVec.extractLsb'_append_eq_of_le (by decide),
      BitVec.extractLsb'_append_eq_right]
  have h2 : (b0 ++ b1 ++ b2 ++ b3).extractLsb' 8 8 = b2 := by
    rw [BitVec.extractLsb'_append_eq_of_le (by decide), BitVec.extractLsb'_append_eq_right]
  have h3 : (b0 ++ b1 ++ b2 ++ b3).extractLsb' 0 8 = b3 := BitVec.extractLsb'_append_eq_right
  simp only [be32Bytes_eq, List.cons.injEq, and_true]
  exact ⟨h0, h1, h2, h3⟩

/-- The value of a word is the big-endian reading of its bytes (R126). -/
theorem toNat_be32 :
    (be32 b0 b1 b2 b3).toNat = b0.toNat * 2 ^ 24 + b1.toNat * 2 ^ 16 + b2.toNat * 2 ^ 8 + b3.toNat := by
  have hread := foldl_be32Bytes (be32 b0 b1 b2 b3) 0
  rw [be32Bytes_be32] at hread
  simp only [List.foldl_cons, List.foldl_nil] at hread
  omega

/-- The four bytes of a word join to it again (R127). -/
theorem be32_be32Byte (w : Word) : be32 (be32Byte w 0) (be32Byte w 1) (be32Byte w 2) (be32Byte w 3) = w :=
  (be32_extractLsb' w 0).trans BitVec.extractLsb'_eq_self

end Bytes

end Sys2Proof.Machine
end

section
/-! The obligations on the primitives of the word arithmetic (R120, R121, R126, R127, R128). -/

namespace Sys2Proof.Machine

/-- Settles O54: `add32` is the sum in the commutative ring of words. -/
theorem addIsSumModulo : Obligations.AddIsSumModulo := by
  unfold Obligations.AddIsSumModulo
  exact fun xs _ => ⟨toNat_add32 xs, add32_perm⟩

/-- Settles O55: the two shifts have no bit in common, so that their sum is the rotation. -/
theorem rotationBits : Obligations.RotationBits := by
  unfold Obligations.RotationBits
  intro x n _ hn
  exact ⟨toNat_rotr32 x n, fun i hi => getLsbD_rotr32 x (by omega) hi⟩

/-- Settles O58: the bytes of a word are the fields that `be32` concatenates. -/
theorem wordBytesRoundTrip : Obligations.WordBytesRoundTrip := by
  unfold Obligations.WordBytesRoundTrip
  exact ⟨fun b0 b1 b2 b3 => ⟨toNat_be32 b0 b1 b2 b3, be32Bytes_be32 b0 b1 b2 b3⟩,
    fun w => ⟨be32_be32Byte w, be32Bytes_eq w⟩, fun _ => rfl⟩

end Sys2Proof.Machine
end

section
/-! SUPPORT. The fill count as the least solution of a congruence, and the padded message split at the last whole
block (R140, R142, R145). -/

namespace Sys2Proof.Machine

section FillCount
variable (n : Nat)

/-- The fill count is the remainder itself: nothing is cut off on the way to `Nat` (R140). -/
theorem coe_zeroFill : (zeroFill n : Int) = (55 - (n : Int)) % 64 := Int.toNat_of_nonneg (by omega)

theorem zeroFill_lt : zeroFill n < 64 := by
  have hcoe := coe_zeroFill n
  omega

theorem add_zeroFill_mod : (n + 1 + zeroFill n) % 64 = 56 := by
  have hcoe := coe_zeroFill n
  omega

/-- Every count that reaches 56 modulo 64 agrees with the fill count modulo 64. -/
theorem mod_eq_zeroFill {k : Nat} (hk : (n + 1 + k) % 64 = 56) : k % 64 = zeroFill n := by
  have hz := add_zeroFill_mod n
  have hlt := zeroFill_lt n
  omega

end FillCount

section Split
variable (m : List Byte)

@[simp] theorem padMessage_length : (padMessage m).length = m.length + 1 + zeroFill m.length + 8 := by
  simp only [padMessage, lengthField, List.length_append, List.length_singleton, List.length_replicate, be64Bytes_length]

/-- The padded message is the whole blocks of the message and the tail of the rest (R145). -/
theorem padMessage_eq_append_tail {buf : Vector Byte 64}
    (hbuf : buf.toList.take (m.length % 64) = m.drop (64 * (m.length / 64))) :
    padMessage m =
      m.take (64 * (m.length / 64)) ++ tail buf (m.length % 64) (BitVec.ofNat 64 (8 * m.length)) := by
  rw [tail_eq_append buf _ (by omega), zeroFill_mod, hbuf]
  simp only [← List.append_assoc, List.take_append_drop]
  rfl

/-- The tail, of one block or two, is all that padding adds to the whole blocks of the message (R144, R145). -/
theorem padMessage_length_eq_tailLength :
    (padMessage m).length = 64 * (m.length / 64) + tailLength (m.length % 64) := by
  rw [padMessage_length, tailLength_eq (by omega), zeroFill_mod]
  omega

theorem blocksOf_padMessage_length :
    (blocksOf (padMessage m)).length = if m.length % 64 ≤ 55 then m.length / 64 + 1 else m.length / 64 + 2 := by
  rw [blocksOf, List.length_map, List.length_range, padMessage_length_eq_tailLength, tailLength]
  split <;> omega

end Split

/-- The `FINAL` after a `FINAL` answers from the `H` that the first one left (R213). -/
theorem exec_final_twice {s : State} {p : Pad} (hp : s.pad = some p) (hf : p.phase ≠ .finalized) :
    ∃ t q, exec .final s = .next t ∧ t.pad = some q ∧ q.rsp = some ⟨.ok, digestPort (s.finalCore p).h⟩ ∧
      ∃ u r, exec .final t = .next u ∧ u.pad = some r ∧ r.rsp = some ⟨.ok, digestPort (s.finalCore p).h⟩ :=
  ⟨_, _, exec_final_first hp hf, rfl, rfl, _, _, exec_final_later rfl rfl, rfl, rfl⟩

end Sys2Proof.Machine
end

section
/-! The obligations on padding and on the digest that `FINAL` returns (R140 to R146, R218). -/

namespace Sys2Proof.Machine

/-- Settles O41: the first `FINAL` leaves the digest in `H`, and the second answers from there. -/
theorem finalReturnsDigestOfMessage : Obligations.FinalReturnsDigestOfMessage := by
  unfold Obligations.FinalReturnsDigestOfMessage
  intro s m hm
  have ⟨p, hp, hf, _⟩ := hm
  rw [← hm.digest_finalCore hp, ← digestPort_eq_bytesPort]
  exact exec_final_twice hp hf

/-- Settles O48, segment by segment. -/
theorem tailIsConcatenation : Obligations.TailIsConcatenation := by
  unfold Obligations.TailIsConcatenation
  exact fun buf _ cnt hr => tail_eq_append buf cnt hr

/-- Settles O49: the pending bytes rejoin the whole blocks, and the fill count depends on the rest alone. -/
theorem paddingSplits : Obligations.PaddingSplits := by
  unfold Obligations.PaddingSplits
  exact fun m _ hbuf => padMessage_eq_append_tail m hbuf

/-- Settles O46: the counts that reach 56 modulo 64 are congruent, and the fill count is the one below 64. -/
theorem zeroFillIsLeast : Obligations.ZeroFillIsLeast := by
  unfold Obligations.ZeroFillIsLeast
  exact fun n => ⟨coe_zeroFill n, Nat.le_of_lt_succ (zeroFill_lt n), (zeroFill_mod n).symm, add_zeroFill_mod n,
    fun k hk => mod_eq_zeroFill n hk ▸ Nat.mod_le k 64⟩

/-- Settles O47: the length is that of the whole blocks and of a tail of one block or two. -/
theorem paddedMessage : Obligations.PaddedMessage := by
  unfold Obligations.PaddedMessage
  intro m
  have hmod : (padMessage m).length % 64 = 0 := by
    have hz := add_zeroFill_mod m.length
    rw [padMessage_length]
    omega
  exact ⟨rfl, padMessage_length m, hmod, blocksOf_padMessage_length m⟩

end Sys2Proof.Machine
end

section
/-! SUPPORT. The schedule as the outcome of an expansion that keeps the recurrence at every word (R164, R165), and the
bits of an exclusive or of rotations and shifts (R160, R161, R180, R181). -/

namespace Sys2Proof.Machine

section Expansion
variable {ws : List Word}

/-- The expansion writes word `t` at the end of a list of `t` words. -/
theorem wAt_schedExp_length (ws : List Word) (t : Nat) : wAt (schedExp ws t) ws.length = schedWord ws t := by
  rw [wAt_eq _ _ (by simp)]
  exact List.getElem_concat_length rfl _

/-- The word of step `t` reads earlier words only, so a word appended at or after `t` does not change it (R164). -/
theorem schedWord_schedExp (u : Nat) {t : Nat} (hpos : 0 < t) (ht : t ≤ ws.length) :
    schedWord (schedExp ws u) t = schedWord ws t := by
  have hread : ∀ i, 0 < i → wAt (schedExp ws u) (t - i) = wAt ws (t - i) :=
    fun i hi => wAt_schedExp ws u (by omega)
  rw [schedWord, hread 2 (by decide), hread 7 (by decide), hread 15 (by decide), hread 16 (by decide), schedWord]

/-- Every word past the loaded ones obeys the recurrence, read in the list itself (R164). -/
def IsExpanded (ws : List Word) : Prop := ∀ t, 16 ≤ t → t < ws.length → wAt ws t = schedWord ws t

theorem isExpanded_schedLoad (b : Block) : IsExpanded (schedLoad b) := by
  intro t h16 ht
  rw [schedLoad_length] at ht
  omega

/-- An old word stays and reads what it read before; the new word is the recurrence itself. -/
theorem isExpanded_schedExp (h : IsExpanded ws) : IsExpanded (schedExp ws ws.length) := by
  intro t h16 ht
  rw [schedExp_length] at ht
  rw [schedWord_schedExp _ (by omega) (by omega)]
  obtain hold | rfl : t < ws.length ∨ t = ws.length := by omega
  · rw [wAt_schedExp _ _ hold, h t h16 hold]
  · exact wAt_schedExp_length ws _

/-- The steps `SCHED_EXP t` in the order of R165, each at the end of the words before it, keep the recurrence. -/
theorem isExpanded_foldl_schedExp (h : IsExpanded ws) (k : Nat) :
    IsExpanded ((List.range' ws.length k).foldl schedExp ws) := by
  induction k generalizing ws with
  | zero => exact h
  | succ k ih =>
    rw [List.range'_succ, List.foldl_cons, ← schedExp_length ws ws.length]
    exact ih (isExpanded_schedExp h)

theorem isExpanded_sched (b : Block) : IsExpanded (sched b) :=
  isExpanded_foldl_schedExp (isExpanded_schedLoad b) 48

theorem length_foldl_schedExp (ts : List Nat) (ws : List Word) :
    (ts.foldl schedExp ws).length = ws.length + ts.length := by
  induction ts generalizing ws with
  | nil => rfl
  | cons t ts ih =>
    rw [List.foldl_cons, ih, schedExp_length, List.length_cons]
    omega

@[simp] theorem sched_length (b : Block) : (sched b).length = 64 := by
  rw [sched, length_foldl_schedExp, schedLoad_length, List.length_range']

theorem schedWord_eq_add (ws : List Word) (t : Nat) :
    schedWord ws t = sigma1 (wAt ws (t - 2)) + wAt ws (t - 7) + sigma0 (wAt ws (t - 15)) + wAt ws (t - 16) := by
  simp [schedWord, add32]

end Expansion

section SigmaBits
variable (x : Word) {i l m n : Nat}

/-- Above bit `31 - n` the shift brings 0, as the operand has no bits there (R122). -/
theorem getLsbD_shr32 : (shr32 x n).getLsbD i = x.getLsbD (i + n) := by
  rw [shr32, BitVec.getLsbD_ushiftRight, Nat.add_comm]

/-- The bits of two rotations and a shift (R160, R161). -/
theorem getLsbD_rotr32_xor_rotr32_xor_shr32 (hl : l < 32) (hm : m < 32) (hi : i < 32) :
    (rotr32 x l ^^^ rotr32 x m ^^^ shr32 x n).getLsbD i =
      (x.getLsbD ((i + l) % 32) ^^ x.getLsbD ((i + m) % 32) ^^ x.getLsbD (i + n)) := by
  rw [BitVec.getLsbD_xor, BitVec.getLsbD_xor, getLsbD_rotr32 x hl hi, getLsbD_rotr32 x hm hi, getLsbD_shr32]

/-- The bits of three rotations (R180, R181). -/
theorem getLsbD_rotr32_xor_rotr32_xor_rotr32 (hl : l < 32) (hm : m < 32) (hn : n < 32) (hi : i < 32) :
    (rotr32 x l ^^^ rotr32 x m ^^^ rotr32 x n).getLsbD i =
      (x.getLsbD ((i + l) % 32) ^^ x.getLsbD ((i + m) % 32) ^^ x.getLsbD ((i + n) % 32)) := by
  rw [BitVec.getLsbD_xor, BitVec.getLsbD_xor, getLsbD_rotr32 x hl hi, getLsbD_rotr32 x hm hi, getLsbD_rotr32 x hn hi]

end SigmaBits

end Sys2Proof.Machine
end

section
/-! The obligations on the message schedule and on its sigma functions and those of the rounds (R160 to R165, R180,
R181). -/

namespace Sys2Proof.Machine

/-- Settles O50: the expansion keeps the recurrence at every word, and leaves the loaded words. -/
theorem scheduleRecurrence : Obligations.ScheduleRecurrence := by
  unfold Obligations.ScheduleRecurrence
  intro b
  refine ⟨sched_length b, fun i hi => wAt_sched b hi, fun t h16 h63 => ?_⟩
  rw [isExpanded_sched b t h16 (by rw [sched_length]; omega), schedWord_eq_add]

/-- Settles O56: each term brings one bit of the operand. -/
theorem sigmaBits : Obligations.SigmaBits := by
  unfold Obligations.SigmaBits
  intro x i hi
  exact ⟨getLsbD_rotr32_xor_rotr32_xor_shr32 x (by decide) (by decide) hi,
    getLsbD_rotr32_xor_rotr32_xor_shr32 x (by decide) (by decide) hi,
    getLsbD_rotr32_xor_rotr32_xor_rotr32 x (by decide) (by decide) (by decide) hi,
    getLsbD_rotr32_xor_rotr32_xor_rotr32 x (by decide) (by decide) (by decide) hi⟩

end Sys2Proof.Machine
end

section
/-! SUPPORT. The core operations (R101, R191, R192), the bits of `Ch` and `Maj` (R182, R183), and the micro-operations
of a compression with each sum written out (R187, R189). -/

namespace Sys2Proof.Machine

section CoreOperations
variable (s : State)

theorem exec_cIdle : exec .cIdle s = .next s := rfl

theorem exec_cInit : exec .cInit s = .next (s.setH iv) := rfl

theorem exec_cNext (pins : BlockPort) :
    exec (.cNext pins) s = .next (s.setH (compress s.h (blockOfPort pins))) := rfl

end CoreOperations

/-- A block is the block on the pins when each of its bytes stands in its field of them (R64). -/
theorem eq_blockOfPort {pins : BlockPort} {block : Block}
    (h : ∀ (j : Nat) (hj : j < 64), block[j] = pins.extractLsb' (504 - 8 * j) 8) : block = blockOfPort pins := by
  ext1 j hj
  rw [h j hj, getElem_blockOfPort]

section ChooseAndMajority
variable (x y z : Word) (i : Nat)

/-- Bits above the word are 0 in `z` as in the complement of `x`, so the law holds for every `i`. -/
theorem getLsbD_ch : (ch x y z).getLsbD i = if x.getLsbD i then y.getLsbD i else z.getLsbD i := by
  rw [ch, not32, BitVec.getLsbD_xor, BitVec.getLsbD_and, BitVec.getLsbD_and, BitVec.getLsbD_not]
  by_cases hi : i < 32
  · cases x.getLsbD i <;> simp [hi]
  · simp [BitVec.getLsbD_of_ge _ i (not_lt.mp hi)]

/-- The exclusive or of the three pairs is 1 exactly when one or all of them are. -/
theorem getLsbD_maj : (maj x y z).getLsbD i =
    ((x.getLsbD i && y.getLsbD i) || (x.getLsbD i && z.getLsbD i) || (y.getLsbD i && z.getLsbD i)) := by
  simp only [maj, BitVec.getLsbD_xor, BitVec.getLsbD_and]
  cases x.getLsbD i
  · simp
  · cases y.getLsbD i <;> simp

end ChooseAndMajority

section MicroOperations
variable (k w : Word) (r : Work)

theorem roundT1_eq_add : roundT1 k w r = r.h + bigSigma1 r.e + ch r.e r.f r.g + k + w := by
  simp [roundT1, add32]

theorem roundT2_eq_add : roundT2 r = bigSigma0 r.a + maj r.a r.b r.c := add32_pair _ _

theorem roundStep_eq : roundStep k w r =
    ⟨roundT1 k w r + roundT2 r, r.a, r.b, r.c, r.d + roundT1 k w r, r.e, r.f, r.g⟩ := by
  rw [roundStep, add32_pair, add32_pair]

theorem toList_feedback (s : HashState) : (feedback s r).toList =
    [s[0] + r.a, s[1] + r.b, s[2] + r.c, s[3] + r.d, s[4] + r.e, s[5] + r.f, s[6] + r.g, s[7] + r.h] := by
  simp only [feedback, add32_pair]
  rfl

end MicroOperations

end Sys2Proof.Machine
end

section
/-! The obligations on the compression and on the core operations that start and run it (R101, R182 to R192). -/

namespace Sys2Proof.Machine

/-- Settles O57, with the law of each function at one bit. -/
theorem chooseAndMajorityBits : Obligations.ChooseAndMajorityBits := by
  unfold Obligations.ChooseAndMajorityBits
  exact fun x y z i => ⟨getLsbD_ch x y z i, getLsbD_maj x y z i⟩

/-- Settles O30: both operations are one write to `H` or none. -/
theorem coreIdleAndInitResult : Obligations.CoreIdleAndInitResult := by
  unfold Obligations.CoreIdleAndInitResult
  exact fun s => ⟨exec_cIdle s, exec_cInit s⟩

/-- Settles O31: the bytes of the block determine it, so it is the one on the pins. -/
theorem coreNextResult : Obligations.CoreNextResult := by
  unfold Obligations.CoreNextResult
  intro s pins block hblock
  rw [eq_blockOfPort hblock]
  exact exec_cNext s pins

/-- Settles O51: each sum of the micro-operations is a sum of words; the order of the rounds is that of the model. -/
theorem roundEquations : Obligations.RoundEquations := by
  unfold Obligations.RoundEquations
  refine ⟨fun s => rfl, fun w r t _ => ?_, fun s r => toList_feedback r s, fun s b => rfl⟩
  rw [roundAt, roundStep_eq, roundT1_eq_add, roundT2_eq_add]

end Sys2Proof.Machine
end

section
/-! SUPPORT. The commands of `CFG_FULL` as equations on the fields of the state (R210 to R214), and what performing
one again does (R69). -/

namespace Sys2Proof.Machine

section AcceptedFeed
variable (b : Byte) {p : Pad} (s : State)

/-- A byte that does not fill the buffer leaves CORE alone (R211). -/
theorem State.feedCore_of_lt (hlen : p.bufLen.val < 63) : s.feedCore b p = s := by
  have hfills : p.fills = false := beq_false_of_ne (by omega)
  simp only [feedCore, hfills, Bool.false_eq_true, if_false]

/-- The 64th byte drains the buffer (R211, R193). -/
theorem State.feedCore_of_full (hlen : p.bufLen.val = 63) : s.feedCore b p = s.coreNext (p.storeByte b).buf := by
  have hfills : p.fills = true := beq_of_eq (by omega)
  simp only [feedCore, hfills, if_true]

end AcceptedFeed

section Final
variable (p : Pad) {s : State}

/-- The compressions of `FINAL` write `H` alone. -/
theorem State.finalCore_eq_setH : s.finalCore p = s.setH (s.finalCore p).h := by
  unfold finalCore
  split <;> rfl

/-- The tail, from the pending bytes (R144). -/
theorem Pad.tail_eq_append : tail p.buf p.bufLen.val p.bitCnt =
    p.pending ++ [0x80] ++ List.replicate (zeroFill p.bufLen.val) 0 ++ be64Bytes p.bitCnt :=
  Machine.tail_eq_append p.buf p.bitCnt (Nat.le_of_lt_succ p.bufLen.isLt)

variable {p}

/-- Everything the first `FINAL` does, when its compressions make `h` of the chaining value (R213). -/
theorem exec_final_first_eq {h : HashState} (hp : s.pad = some p) (hf : p.phase ≠ .finalized)
    (hH : foldBlocks s.h (tail p.buf p.bufLen.val p.bitCnt) = h) :
    exec .final s = .next
      { s with h := h, pad := some { p with phase := .finalized, rsp := some ⟨.ok, bytesPort (digest h)⟩ } } := by
  rw [exec_final_first hp hf, State.finalCore_eq_setH, State.finalCore_h_eq_foldBlocks, hH]
  rfl

theorem Pad.setPhase_of_phase_eq {ph : Phase} (hph : p.phase = ph) : p.setPhase ph = p := by
  subst hph
  rfl

end Final

section Again
variable {s t : State} {p : Pad} {i : Instr}

/-- A command but `FEED`, performed on the engine that it left, leaves that same engine. -/
theorem CommandEffect.again (he : CommandEffect s p i t) (hi : ∀ b, i ≠ .feed b) :
    ∃ q, t.pad = some q ∧ CommandEffect t q i t := by
  cases he with
  | init => exact ⟨_, rfl, .init⟩
  | feed b | feedRefused b => exact absurd rfl (hi b)
  | feed0 hf => exact ⟨_, rfl, .feed0 (by simp)⟩
  | feed0Refused hf => exact ⟨_, rfl, .feed0Refused hf⟩
  | finalFirst hf => exact ⟨_, rfl, .finalLater rfl⟩
  | finalLater hf => exact ⟨_, rfl, .finalLater rfl⟩
  | status => exact ⟨_, rfl, .status⟩

/-- A command that answers a next state has found a PAD (R222). -/
theorem exists_pad_of_exec (hi : i.isCommand = true) (hex : exec i s = .next t) : ∃ p, s.pad = some p := by
  cases i with
  | init | feed | feed0 | final | status =>
    obtain ⟨p, hp, -⟩ := State.onPad_eq_next.mp hex
    exact ⟨p, hp⟩
  | cIdle | cInit | cNext => cases hi

theorem exec_again (hcmd : i.isCommand = true) (hi : ∀ b, i ≠ .feed b) (hex : exec i s = .next t) :
    exec i t = .next t := by
  obtain ⟨p, hp⟩ := exists_pad_of_exec hcmd hex
  obtain ⟨q, hq, he⟩ := (commandEffect_of_exec hp hcmd hex).again hi
  exact he.exec_eq hq

end Again

end Sys2Proof.Machine
end

section
/-! The obligations on one command of `CFG_FULL` (R210 to R214). -/

namespace Sys2Proof.Machine

/-- Settles O20: the equation of `INIT`, with every field written out. -/
theorem initResult : Obligations.InitResult := by
  unfold Obligations.InitResult
  exact fun s p hp => exec_init hp

/-- Settles O24: refused in `Finalized`, and elsewhere only the transition. -/
theorem feedEmptyChunkResult : Obligations.FeedEmptyChunkResult := by
  unfold Obligations.FeedEmptyChunkResult
  intro s p hp
  split
  · next hf => exact exec_feed0_refused hp hf
  · next hf => exact exec_feed0_accepted hp hf

/-- Settles O28: the equation of `STATUS`, with every field written out. -/
theorem statusResult : Obligations.StatusResult := by
  unfold Obligations.StatusResult
  exact fun s p hp => exec_status hp

/-- Settles O21: refused in `Finalized`; elsewhere PAD takes the byte, and CORE the buffer that a 64th byte fills. -/
theorem feedResult : Obligations.FeedResult := by
  unfold Obligations.FeedResult
  refine ⟨fun s p b hp hf => exec_feed_refused hp b hf, fun s p b hp hf hlen => ?_,
    fun s p b block hp hf hlen hblock => ?_⟩
  · refine ⟨(p.feedByte b).respond .ok 0, ?_, p.feedByte_buf b, ?_, p.feedByte_bitCnt b, p.feedByte_ovf b,
      p.feedByte_phase b, p.feedByte_uaf b, p.feedByte_ill b, rfl⟩
    · rw [exec_feed_accepted hp b hf, State.feedCore_of_lt b s hlen]
      rfl
    · rw [Pad.respond_bufLen, Pad.feedByte_bufLen, nextBufLen_val, Nat.mod_eq_of_lt (by omega)]
  · have hbuf := Pad.eq_storeByte_of_toList b hlen hblock
    refine ⟨(p.feedByte b).respond .ok 0, ?_, ?_, p.feedByte_bitCnt b, p.feedByte_ovf b,
      (p.feedByte_buf b).trans hbuf.symm, p.feedByte_phase b, p.feedByte_uaf b, p.feedByte_ill b, rfl⟩
    · rw [exec_feed_accepted hp b hf, State.feedCore_of_full b s hlen, hbuf]
      rfl
    · rw [Pad.respond_bufLen, Pad.feedByte_bufLen]
      exact Fin.ext (by rw [nextBufLen_val, hlen]; rfl)

/-- Settles O25: the blocks whose bytes are the tail are those that `FINAL` compresses, and their bytes tell their
number. -/
theorem finalResult : Obligations.FinalResult := by
  unfold Obligations.FinalResult
  refine ⟨fun s p block hp hf _ hblock => ?_, fun s p block₁ block₂ hp hf _ hblocks => ?_, fun s p hp hf => ?_⟩
  · refine exec_final_first_eq hp hf ?_
    rw [p.tail_eq_append, ← hblock, foldBlocks_block]
  · refine exec_final_first_eq hp hf ?_
    rw [p.tail_eq_append, ← hblocks, foldBlocks_append _ _ (by simp), foldBlocks_block, foldBlocks_block]
  · rw [exec_final_later hp hf, Pad.setPhase_of_phase_eq hf]
    rfl

/-- Settles O26, for the first `FINAL` and for a later one. -/
theorem finalAlwaysCompletes : Obligations.FinalAlwaysCompletes := by
  unfold Obligations.FinalAlwaysCompletes
  intro s p hp
  by_cases hf : p.phase = .finalized
  · exact ⟨_, _, exec_final_later hp hf, rfl, rfl, rfl, rfl⟩
  · exact ⟨_, _, exec_final_first hp hf, rfl, rfl, rfl, State.finalCore_host p s⟩

/-- Settles O27: the four commands by their effects, and `C_INIT` as one write of `IV`. -/
theorem idempotentOperations : Obligations.IdempotentOperations := by
  unfold Obligations.IdempotentOperations
  intro i hi s t hex
  cases i with
  | init | feed0 | final | status => exact exec_again rfl nofun hex
  | cInit => cases hex; rfl
  | feed | cIdle | cNext => simp at hi

end Sys2Proof.Machine
end

section
/-! The obligations on the lifecycle (R216, R220): what each event does to the phase, the flags and the message. -/

namespace Sys2Proof.Machine

/-- Settles O35: the rows of the table are the effects of the commands, and one more for the illegal words. -/
theorem lifecycleTable : Obligations.LifecycleTable := by
  unfold Obligations.LifecycleTable
  refine ⟨fun s p w rest hp hh => ?_, fun s p rest hp hh => ?_⟩
  · rcases step_cmd_cases hp hh with ⟨i, t, hd, hst, he⟩ | ⟨e, hd, hst⟩
    · cases he with
      | init | status => exact ⟨_, _, _, hst, rfl, rfl, by simp [hd]⟩
      | feed b hf | feed0 hf => exact ⟨_, _, _, hst, rfl, rfl, by simp [hd, hf]⟩
      | feedRefused b hf | feed0Refused hf =>
        exact ⟨_, _, _, hst, rfl, rfl, by simp [hd, hf, Pad.raise_useAfterFinalize, Condition.code]⟩
      | finalFirst hf => exact ⟨_, _, _, hst, rfl, rfl, by simp [hd, hf, digestPort_eq_bytesPort]⟩
      | finalLater hf => exact ⟨_, _, _, hst, rfl, rfl, by simp [hd, digestPort_eq_bytesPort]⟩
    · refine ⟨_, _, _, hst, rfl, rfl, ?_⟩
      rw [hd]
      exact ⟨rfl, rfl, rfl, rfl⟩
  · refine ⟨_, Pad.reset, step_rst hh, ?_, rfl⟩
    rw [State.applyReset_full (s := s.setHost rest) hp]

section Finalized
variable {s t : State} {p : Pad} {i : Instr}

/-- Between `p` and `q` the message, its length, the overflow flag and the phase are the same. -/
def Pad.MessageKept (p q : Pad) : Prop :=
  q.buf = p.buf ∧ q.bufLen = p.bufLen ∧ q.bitCnt = p.bitCnt ∧ q.phase = p.phase ∧ q.ovf = p.ovf

/-- In `Finalized` a command but `INIT` touches neither the digest nor the message (R220), and `FINAL` gives the digest
again (R213). -/
theorem CommandEffect.keeps_finalized (he : CommandEffect s p i t) (hf : p.phase = .finalized) (hi : i ≠ .init) :
    t.h = s.h ∧ ∃ q, t.pad = some q ∧ p.MessageKept q ∧
      (i = .final → q.rsp = some ⟨.ok, bytesPort (digest s.h)⟩) := by
  cases he with
  | init => exact absurd rfl hi
  | feed b hf' | feed0 hf' | finalFirst hf' => exact absurd hf hf'
  | feedRefused | feed0Refused | status => exact ⟨rfl, _, rfl, ⟨rfl, rfl, rfl, rfl, rfl⟩, nofun⟩
  | finalLater => exact ⟨rfl, _, rfl, ⟨rfl, rfl, rfl, hf.symm, rfl⟩, fun _ => rfl⟩

/-- The command word at the head of the host's list, when that is an encoded operation. -/
theorem decodeCmd_of_head_eq {w : CmdWord} {rest : List HostEvent} (hh : s.host = .present (.cmd w) :: rest)
    (hhead : s.host.head? = some (.present (encode i))) : decodeCmd w = .ok i := by
  have hw : PortWord.cmd w = encode i := by simpa [hh] using hhead
  exact (congrArg decode hw).trans (decode_encode i)

/-- What a step in `Finalized` leaves alone (R220), a step on `rst` or `INIT` excepted. -/
theorem step_keeps_finalized (hp : s.pad = some p) (hf : p.phase = .finalized) (hst : step s = .next t)
    (hrst : s.host.head? ≠ some .rst) (hinit : s.host.head? ≠ some (.present (encode .init))) :
    t.h = s.h ∧ ∃ q, t.pad = some q ∧ p.MessageKept q ∧
      (s.host.head? = some (.present (encode .final)) → q.rsp = some ⟨.ok, bytesPort (digest s.h)⟩) := by
  obtain ⟨hh, rfl⟩ | ⟨rest, hh, -⟩ | ⟨w, rest, p', i, hh, hp', hd, hex⟩ | ⟨w, rest, p', e, hh, hp', hd, rfl⟩ |
    ⟨_, _, _, _, -, hnone, -, -⟩ := step_next_cases hst
  · exact ⟨rfl, p.dropResponse, by simp [hp], ⟨rfl, rfl, rfl, rfl, rfl⟩, by simp [hh]⟩
  · exact absurd (by rw [hh]; rfl) hrst
  · obtain rfl : p = p' := Option.some_inj.mp (hp.symm.trans hp')
    have hi : i ≠ .init := by
      rintro rfl
      exact hinit (by rw [hh, encode_of_decodeCmd hd]; rfl)
    have he := commandEffect_of_exec (s := s.setHost rest) hp (decodeCmd_isCommand hd) hex
    obtain ⟨hH, q, hq, hkept, hrsp⟩ := he.keeps_finalized hf hi
    refine ⟨hH, q, hq, hkept, fun hhead => hrsp ?_⟩
    simpa [hd] using decodeCmd_of_head_eq hh hhead
  · obtain rfl : p = p' := Option.some_inj.mp (hp.symm.trans hp')
    refine ⟨rfl, _, rfl, ⟨rfl, rfl, rfl, rfl, rfl⟩, fun hhead => ?_⟩
    cases hd.symm.trans (decodeCmd_of_head_eq hh hhead)
  · simp [hp] at hnone

end Finalized

/-- Settles O38: what a step in `Finalized` leaves alone, field by field. -/
theorem finalizedIsTerminal : Obligations.FinalizedIsTerminal := by
  unfold Obligations.FinalizedIsTerminal
  intro s t p hp hf hst hrst hinit
  obtain ⟨hH, q, hq, ⟨hbuf, hlen, hcnt, hphase, hovf⟩, hrsp⟩ := step_keeps_finalized hp hf hst hrst hinit
  exact ⟨hH, q, hq, hbuf, hlen, hcnt, hphase.trans hf, hovf, hrsp⟩

end Sys2Proof.Machine
end

section
/-! The obligations on the exceptional conditions: who raises `UseAfterFinalize` and `IllegalCommand`, and all that they
do (R252, R254). -/

namespace Sys2Proof.Machine

/-- Only a refused feed is answered with `ERR_UAF` (R252). -/
theorem CommandEffect.isFeed_of_errUaf {s t : State} {p q : Pad} {i : Instr} {d : DigestPort}
    (he : CommandEffect s p i t) (hq : t.pad = some q) (hrsp : q.rsp = some ⟨.errUaf, d⟩) :
    p.phase = .finalized ∧ IsFeed i := by
  cases he with
  | feedRefused b hf => exact ⟨hf, .inr ⟨b, rfl⟩⟩
  | feed0Refused hf => exact ⟨hf, .inl rfl⟩
  | init | feed | feed0 | finalFirst | finalLater | status => cases hq; cases hrsp

/-- Settles O22: in `Finalized` both feeds are refused, and every other effect of a command responds `OK`. -/
theorem feedAfterFinalRaises : Obligations.FeedAfterFinalRaises := by
  unfold Obligations.FeedAfterFinalRaises
  refine ⟨fun s p hp hf => ⟨fun b => exec_feed_refused hp b hf, exec_feed0_refused hp hf⟩, ?_⟩
  intro s t p q i d hp hi hex hq hrsp
  exact (commandEffect_of_exec hp hi hex).isFeed_of_errUaf hq hrsp

/-- Settles O9: the equation of a step on an illegal word, with every field written out. -/
theorem illegalWordRaisesIllegalCommand : Obligations.IllegalWordRaisesIllegalCommand := by
  unfold Obligations.IllegalWordRaisesIllegalCommand
  exact fun s p w rest hp hh hd => step_illegal hp hh hd

end Sys2Proof.Machine
end

section
/-! The obligations on the ways back to the start: `rst`, and `INIT` or `C_INIT` against it (R290, R291). -/

namespace Sys2Proof.Machine

@[simp] theorem State.applyReset_host (s : State) : s.applyReset.host = s.host := rfl

/-- Settles O18: the step on `rst` is `applyReset`, whose PAD, where there is one, is `Pad.reset`. -/
theorem rstGivesResetState : Obligations.RstGivesResetState := by
  unfold Obligations.RstGivesResetState
  intro s rest hh
  refine ⟨_, step_rst hh, State.applyReset_h _, by simp, State.applyReset_rspValid _, fun hp => ?_, fun hp => ?_⟩
  · rw [State.applyReset_core (s := s.setHost rest) hp]
  · obtain ⟨p, hp⟩ := Option.ne_none_iff_exists'.mp hp
    rw [State.applyReset_full (s := s.setHost rest) hp]
    exact ⟨Pad.reset, rfl, rfl, rfl, rfl, rfl, rfl, rfl⟩

/-- `INIT` leaves PAD as reset does, but for the cells of `BUF` and the response (R210, R291). -/
theorem Pad.clear_eq_reset (p : Pad) : p.clear = { Pad.reset with buf := p.buf, rsp := p.rsp } := rfl

/-- Settles O19: `INIT` and `C_INIT` load `IV` as `rst` does, and the PAD that `INIT` clears is that of reset. -/
theorem initGivesResetState : Obligations.InitGivesResetState := by
  unfold Obligations.InitGivesResetState
  refine ⟨fun s p hp => ?_, fun s hp => ?_⟩
  · refine ⟨_, _, exec_init hp, rfl, rfl, Pad.reset, by rw [State.applyReset_full hp], rfl, ?_, ?_⟩
    · rw [State.applyReset_h]
      rfl
    · rw [Pad.clear_eq_reset]
      rfl
  · exact ⟨_, exec_cInit s, (State.applyReset_h s).symm, by rw [State.applyReset_core hp]⟩

end Sys2Proof.Machine
end
